-- ==== Sys2Proof/Word.lean ====
section
/-! DEFINITION. The word types of OSMO-AFIFO (spec/00_scope.md R7, R12; spec/30_encoding.md R71).
Only what the spec treats as bits is a bit vector. -/

namespace Sys2Proof

/-- A command word, a response value, a 32-bit register or a binary32 pattern (R12, R71, R77). -/
abbrev Word := BitVec 32

/-- One byte of a payload or of slot storage (R50, R79). -/
abbrev Byte := BitVec 8

/-- A command operand: OPERAND_BITS = 28 (R5, R71). -/
abbrev Operand := BitVec 28

/-- A raw 16-bit code (R52, R161). -/
abbrev Half := BitVec 16

end Sys2Proof
end

