-- ==== Sys2Proof/Config.lean ====
section
/-! DEFINITION. What is fixed for one block, and the free values.
The configuration record is spec/00_scope.md R5: named parameters whose default is the value this
hardware takes. A free value is an opaque constant: no proof can learn what it is. -/

namespace Sys2Proof

/-- The three ports, one per agent (R4, R73). -/
inductive Port where
  | host
  | producer
  | consumer
  deriving DecidableEq, Repr

/-- One choice of the environment: which step is offered next (R57, R211).
The first three offer the step of a port. `timeout` offers the prefill timeout step (R147).
`reset` is the hardware reset (R200). -/
inductive Pick where
  | host
  | producer
  | consumer
  | timeout
  | reset
  deriving DecidableEq, Repr, Inhabited

/-- RAW_ENDIAN (R5, R52). -/
inductive Endian where
  | little
  | big
  deriving DecidableEq, Repr

/-- PREFILL_MODE (R5, R141, R148). -/
inductive PrefillMode where
  | once
  | everyCall
  deriving DecidableEq, Repr

/-- The configuration record of R5, under the rule's own names.
OPERAND_BITS is the width of `Operand`. OPEN_OK is a draw per OPEN, so it is an input of the step and not here.
The two defaults have the width of the registers that they are written to (R25, R26). -/
structure Params where
  nDefault       : Operand
  buflenGranule  : Nat
  buflenDefault  : Operand
  minPrefill     : Nat
  skipK          : Nat
  scaleShift     : Nat
  rawEndian      : Endian
  prefillMode    : PrefillMode
  prefillTimeout : Bool
  ringBytesMax   : Nat
  deriving DecidableEq, Repr

/-- The constraints on the parameters that R5 and D42 state, and one that R6 and R43(b) need:
a granule is a nonzero multiple of 512 (DEDUCED, log 12). -/
abbrev Params.wf (p : Params) : Prop :=
  p.nDefault ≠ 0 ∧
  0 < p.buflenGranule ∧ p.buflenGranule % 512 = 0 ∧
  p.buflenDefault ≠ 0 ∧ p.buflenDefault.toNat % p.buflenGranule = 0 ∧
  p.minPrefill < 2 ^ 28 ∧ p.skipK < 2 ^ 28 ∧ p.scaleShift ≤ 126

/-- RING_BYTES_MAX of this hardware: OPEN in R5, left to the platform (D33; log 2). -/
opaque Config.ringBytesMax : Nat

/-- The next pick when the environment's schedule gives none: order left open by R42 and R57 (log 1). -/
opaque Config.freePick : Nat → Pick

/-- OPEN_OK when the environment's list gives no answer: a draw per OPEN (R42, R102; log 3). -/
opaque Config.freeOpenOk : Nat → Bool

/-- What the slot storage holds after OPEN, by the number of the draw and the address:
"any value (a draw)" (R28, D34; log 4). -/
opaque Config.freeSlotByte : Nat → Nat → Byte

/-- A payload byte that the Producer's data does not give, by the number of the draw and the index:
"a draw of the Producer" (R42; log 5). -/
opaque Config.freePayloadByte : Nat → Nat → Byte

/-- Whether a command that holds on a port when the hardware is reset stays issued, by the number of the draw and the
port: the spec does not say, and says nothing that ties one port's command to another's (log 8). -/
opaque Config.freeHeldSurvivesReset : Nat → Port → Bool

/-- The values this hardware takes (R5, column "value"). -/
def Params.hardware : Params where
  nDefault       := 15
  buflenGranule  := 512
  buflenDefault  := 819200
  minPrefill     := 3
  skipK          := 1
  scaleShift     := 15
  rawEndian      := .little
  prefillMode    := .once
  prefillTimeout := false
  ringBytesMax   := Config.ringBytesMax

end Sys2Proof
end

