-- ==== Sys2Proof/Syntax.lean ====
section
/-! DEFINITION. The commands of OSMO-AFIFO (spec/30_encoding.md R70 to R82): one constructor of
`Instr` per row of spec/opcode_table.json, the command as a port carries it, and the assembler's lines. -/

namespace Sys2Proof

/-- The ten opcodes of R74, by mnemonic. -/
inductive Opcode where
  | cfgBuffers
  | cfgBuflen
  | openDevice
  | start
  | stop
  | close
  | readReg
  | deliver
  | drvExit
  | produce
  deriving DecidableEq, Repr

/-- A command after decoding (R74). An operand has the 28 bits of R72.
OPEN, START, STOP and CLOSE take none: a word of theirs with a nonzero operand is no command (R76). -/
inductive Instr where
  /-- CFG_BUFFERS: the pending ring slot count (R100). -/
  | cfgBuffers (n : Operand)
  /-- CFG_BUFLEN: the pending slot byte length (R101). -/
  | cfgBuflen (b : Operand)
  /-- OPEN: open the device and allocate the ring (R102). -/
  | openDevice
  /-- START: begin a stream (R103). -/
  | start
  /-- STOP: end the stream, then join (R104, R105). -/
  | stop
  /-- CLOSE: cancel, join, free (R106, R107). -/
  | close
  /-- READ_REG: read a status register (R108). -/
  | readReg (sel : Operand)
  /-- DELIVER: one driver callback with one raw block of `len` bytes (R120). -/
  | deliver (len : Operand)
  /-- DRV_EXIT: the driver's read loop has returned (R124). -/
  | drvExit (status : Operand)
  /-- PRODUCE: pull up to `want` converted samples (R140). -/
  | produce (want : Operand)
  deriving DecidableEq, Repr

/-- The row of R74 that a command belongs to. -/
def Instr.opcode : Instr → Opcode
  | .cfgBuffers _ => .cfgBuffers
  | .cfgBuflen _  => .cfgBuflen
  | .openDevice   => .openDevice
  | .start        => .start
  | .stop         => .stop
  | .close        => .close
  | .readReg _    => .readReg
  | .deliver _    => .deliver
  | .drvExit _    => .drvExit
  | .produce _    => .produce

/-- The operand field of a command: 0 where the command takes none (R72, R76). -/
def Instr.operand : Instr → Operand
  | .cfgBuffers n => n
  | .cfgBuflen b  => b
  | .openDevice   => 0
  | .start        => 0
  | .stop         => 0
  | .close        => 0
  | .readReg sel  => sel
  | .deliver len  => len
  | .drvExit st   => st
  | .produce want => want

/-- The one port that accepts an opcode (R73). -/
def Opcode.port : Opcode → Port
  | .cfgBuffers => .host
  | .cfgBuflen  => .host
  | .openDevice => .host
  | .start      => .host
  | .stop       => .host
  | .close      => .host
  | .readReg    => .host
  | .deliver    => .producer
  | .drvExit    => .producer
  | .produce    => .consumer

/-- The port a command is accepted on (R73). -/
def Instr.port (i : Instr) : Port := i.opcode.port

/-- Whether the operand of an opcode must be 0 (R76). -/
def Opcode.operandMustBeZero : Opcode → Bool
  | .openDevice => true
  | .start      => true
  | .stop       => true
  | .close      => true
  | .cfgBuffers => false
  | .cfgBuflen  => false
  | .readReg    => false
  | .deliver    => false
  | .drvExit    => false
  | .produce    => false

/-- The mnemonic of R74, as the assembler writes it. -/
def Opcode.mnemonic : Opcode → String
  | .cfgBuffers => "CFG_BUFFERS"
  | .cfgBuflen  => "CFG_BUFLEN"
  | .openDevice => "OPEN"
  | .start      => "START"
  | .stop       => "STOP"
  | .close      => "CLOSE"
  | .readReg    => "READ_REG"
  | .deliver    => "DELIVER"
  | .drvExit    => "DRV_EXIT"
  | .produce    => "PRODUCE"

/-- All opcodes, in the order of R74. -/
def Opcode.all : List Opcode :=
  [.cfgBuffers, .cfgBuflen, .openDevice, .start, .stop, .close, .readReg, .deliver, .drvExit, .produce]

/-- A command as an agent presents it on a port: the word, and the payload that a DELIVER carries
(R70, R79). A payload that stands with another word has no meaning and is not looked at. -/
structure Command where
  word    : Word
  payload : List Byte
  deriving DecidableEq, Repr

/-- One line of a listing (R80): the port's prefix, the mnemonic, and the operand as a number.
The operand is any natural number here: whether it fits is the assembler's check. -/
structure AsmLine where
  port    : Port
  opcode  : Opcode
  operand : Option Nat
  deriving DecidableEq, Repr

/-- The pseudo-commands of R81. -/
inductive Pseudo where
  | configure (n b : Nat)
  | restart
  | destroy
  | status
  deriving DecidableEq, Repr

end Sys2Proof
end

