-- ==== Sys2Proof/WellFormed.lean ====
section
/-! DEFINITION. The well-formedness checks.
A term of `Instr` is well-formed by its type: its operand has the 28 bits of R72, and the four
commands whose operand must be 0 have none to get wrong (R76). What can be ill-formed is what an agent or
a programmer writes: an assembler line (R80) and a DELIVER's payload (R79). -/

namespace Sys2Proof

/-- R80: "An operand that does not fit in 28 bits is an assembly error and yields no word." -/
def AsmLine.operandFits (l : AsmLine) : Bool :=
  match l.operand with
  | none   => true
  | some n => decide (n < 2 ^ 28)

/-- R80 writes a command as `MNEMONIC` or `MNEMONIC operand`. A command that needs an operand has one
(DEDUCED, log 13); the four commands without one may be written either way, as `STOP 1` is in
spec/95_test_vectors.md program 3. -/
def AsmLine.operandPresent (l : AsmLine) : Bool :=
  l.opcode.operandMustBeZero || l.operand.isSome

/-- A line's mnemonic is one that the line's port accepts (R73). R80 names no such error. That a mnemonic of another
port does not assemble is read from spec/95_test_vectors.md program 3, which shows `host: 0x80000200` bare "because no
mnemonic assembles to" it (DEDUCED, log 19). -/
def AsmLine.portAccepts (l : AsmLine) : Bool := decide (l.opcode.port = l.port)

/-- An assembler line that yields a word. -/
def AsmLine.wf (l : AsmLine) : Bool := l.operandFits && l.operandPresent && l.portAccepts

/-- How many payload bytes a command carries: a DELIVER carries exactly `len`, no other command has a
payload (R79). -/
def Instr.payloadLength : Instr → Nat
  | .cfgBuffers _ => 0
  | .cfgBuflen _  => 0
  | .openDevice   => 0
  | .start        => 0
  | .stop         => 0
  | .close        => 0
  | .readReg _    => 0
  | .deliver len  => len.toNat
  | .drvExit _    => 0
  | .produce _    => 0

/-- R79: the payload has exactly the length the command says. -/
def payloadWf (i : Instr) (payload : List Byte) : Bool := payload.length == i.payloadLength

end Sys2Proof
end

