-- ==== Sys2Proof/Decode.lean ====
section
/-! DEFINITION. Decoding a command word on a port (spec/30_encoding.md R71 to R76, R82), and after it
the encoder, the opcode table of R74 as rows, and the assembler of R80 and R81. -/

namespace Sys2Proof

/-- `w[31:28]` (R71). -/
def opField (w : Word) : BitVec 4 := w.extractLsb' 28 4

/-- `w[27:0]` (R71, R72). -/
def immField (w : Word) : Operand := w.extractLsb' 0 28

/-- The opcode of an `op` field; none for the reserved values 0x0 and 0xB to 0xF (R74, R75). -/
def opcodeOf (op : BitVec 4) : Option Opcode :=
  match op with
  | 0x1#4 => some .cfgBuffers
  | 0x2#4 => some .cfgBuflen
  | 0x3#4 => some .openDevice
  | 0x4#4 => some .start
  | 0x5#4 => some .stop
  | 0x6#4 => some .close
  | 0x7#4 => some .readReg
  | 0x8#4 => some .deliver
  | 0x9#4 => some .drvExit
  | 0xA#4 => some .produce
  | _     => none

/-- The command of an opcode with its operand (R72, R74). -/
def Opcode.withOperand (op : Opcode) (imm : Operand) : Instr :=
  match op with
  | .cfgBuffers => .cfgBuffers imm
  | .cfgBuflen  => .cfgBuflen imm
  | .openDevice => .openDevice
  | .start      => .start
  | .stop       => .stop
  | .close      => .close
  | .readReg    => .readReg imm
  | .deliver    => .deliver imm
  | .drvExit    => .drvExit imm
  | .produce    => .produce imm

/-- Why a word is no command (R82), one name per failing check. -/
inductive Reject where
  /-- A reserved opcode (R75). -/
  | reservedOpcode
  /-- An opcode that the port does not accept (R73). -/
  | wrongPort
  /-- A nonzero operand of OPEN, START, STOP or CLOSE (R76). -/
  | illegalOperand
  deriving DecidableEq, Repr

/-- What decoding answers. -/
inductive Decoded where
  | instr (i : Instr)
  | reject (r : Reject)
  deriving DecidableEq, Repr

/-- The operand check and the dispatch, for an opcode that is known (R76, R82). -/
def decodeOperand (op : Opcode) (imm : Operand) : Decoded :=
  if op.operandMustBeZero = true ∧ imm ≠ 0 then .reject .illegalOperand
  else .instr (op.withOperand imm)

/-- Decode of word `w` on port `p`: the first failing check decides (R82). -/
def decodeOn (p : Port) (w : Word) : Decoded :=
  match opcodeOf (opField w) with
  | none    => .reject .reservedOpcode
  | some op => if op.port = p then decodeOperand op (immField w) else .reject .wrongPort

/-- The command a word stands for, on the port that accepts it (R74). -/
def decode (w : Word) : Decoded :=
  match opcodeOf (opField w) with
  | none    => .reject .reservedOpcode
  | some op => decodeOperand op (immField w)

/-- The `op` field of an opcode (R74). -/
def Opcode.code : Opcode → BitVec 4
  | .cfgBuffers => 0x1
  | .cfgBuflen  => 0x2
  | .openDevice => 0x3
  | .start      => 0x4
  | .stop       => 0x5
  | .close      => 0x6
  | .readReg    => 0x7
  | .deliver    => 0x8
  | .drvExit    => 0x9
  | .produce    => 0xA

/-- `{op[3:0], operand[27:0]}` (R80). -/
def packWord (op : Opcode) (imm : Operand) : Word := op.code ++ imm

/-- The word of a command (R71, R74, R80). -/
def encode (i : Instr) : Word := packWord i.opcode i.operand

/-- One row of the opcode map (R74). -/
structure OpcodeRow where
  opcode : Opcode
  pattern : Word
  mask   : Word
  deriving DecidableEq, Repr

/-- The opcode map of R74, with its columns match and mask. -/
def opcodeRows : List OpcodeRow :=
  [⟨.cfgBuffers, 0x10000000, 0xF0000000⟩,
   ⟨.cfgBuflen,  0x20000000, 0xF0000000⟩,
   ⟨.openDevice, 0x30000000, 0xFFFFFFFF⟩,
   ⟨.start,      0x40000000, 0xFFFFFFFF⟩,
   ⟨.stop,       0x50000000, 0xFFFFFFFF⟩,
   ⟨.close,      0x60000000, 0xFFFFFFFF⟩,
   ⟨.readReg,    0x70000000, 0xF0000000⟩,
   ⟨.deliver,    0x80000000, 0xF0000000⟩,
   ⟨.drvExit,    0x90000000, 0xF0000000⟩,
   ⟨.produce,    0xA0000000, 0xF0000000⟩]

/-- R74: a row selects the words with `(w & mask) = match`. -/
def OpcodeRow.selects (r : OpcodeRow) (w : Word) : Bool := (w &&& r.mask) == r.pattern

/-- The instruction of an opcode-table word of `nbits` bits (every bit above is 0).
A command word has 32 bits and there is no longer form (R71), so a longer word is none. -/
def decodeTableWord (nbits w : Nat) : Option Instr :=
  if nbits ≤ 32 then
    match decode (BitVec.ofNat 32 (w % 2 ^ nbits)) with
    | .instr i  => some i
    | .reject _ => none
  else none

/-- The word of an assembler line; none for an assembly error (R80). A line without an operand has
operand 0 (log 13), and a mnemonic that the line's port does not accept is an error (log 19). -/
def assemble (l : AsmLine) : Option Word :=
  if l.wf then some (packWord l.opcode (BitVec.ofNat 28 (l.operand.getD 0))) else none

/-- The real commands a pseudo-command stands for, in order (R81). -/
def Pseudo.expand : Pseudo → List AsmLine
  | .configure n b => [⟨.host, .cfgBuffers, some n⟩, ⟨.host, .cfgBuflen, some b⟩]
  | .restart       => [⟨.host, .stop, none⟩, ⟨.host, .start, none⟩]
  | .destroy       => [⟨.host, .close, none⟩]
  | .status        => [⟨.host, .readReg, some 0⟩]

/-- The prefix of a listing's line (R80). -/
def parsePort (s : String) : Option Port :=
  if s = "host:" then some .host
  else if s = "prod:" then some .producer
  else if s = "cons:" then some .consumer
  else none

/-- The opcode of a mnemonic (R74, R80). -/
def parseMnemonic (s : String) : Option Opcode := Opcode.all.find? (fun op => op.mnemonic == s)

/-- The value of a digit in a base up to 16, in either case of the letters. -/
def digitValue (base : Nat) (c : Char) : Option Nat :=
  let v : Option Nat :=
    if '0' ≤ c ∧ c ≤ '9' then some (c.toNat - '0'.toNat)
    else if 'a' ≤ c ∧ c ≤ 'f' then some (c.toNat - 'a'.toNat + 10)
    else if 'A' ≤ c ∧ c ≤ 'F' then some (c.toNat - 'A'.toNat + 10)
    else none
  v.filter (fun d => decide (d < base))

/-- The number a row of digits stands for, given the value of those before it. -/
def digitsValue (base : Nat) : Nat → List Char → Option Nat
  | acc, []      => some acc
  | acc, c :: cs =>
    match digitValue base c with
    | some d => digitsValue base (acc * base + d) cs
    | none   => none

/-- An operand "in decimal or as `0x` hexadecimal" (R80); a row of no digits is none. -/
def parseOperand : List Char → Option Nat
  | '0' :: 'x' :: c :: cs => digitsValue 16 0 (c :: cs)
  | c :: cs               => digitsValue 10 0 (c :: cs)
  | []                    => none

/-- A listing's line as tokens, spaces and the comma left out: port prefix, mnemonic, an operand where
there is one, and after a DELIVER's operand the name of its payload, which is no part of the word (R80).
R80 does not say whether a DELIVER line that names no payload is an error: here it is none (DESIGN CHOICE, log 20). -/
def parseLine : List String → Option AsmLine
  | [p, m] =>
    match parsePort p, parseMnemonic m with
    | some port, some op => some ⟨port, op, none⟩
    | _, _ => none
  | [p, m, o] =>
    match parsePort p, parseMnemonic m, parseOperand o.toList with
    | some port, some op, some n => some ⟨port, op, some n⟩
    | _, _, _ => none
  | [p, m, o, _payloadName] =>
    match parsePort p, parseMnemonic m, parseOperand o.toList with
    | some port, some .deliver, some n => some ⟨port, .deliver, some n⟩
    | _, _, _ => none
  | _ => none

end Sys2Proof
end

