-- ==== Sys2Proof/Machine/State.lean ====
section
/-! DEFINITION. The state: the record `st` of spec/10_state.md R20 as `Block`, and beside it what R42 keeps
apart from `st` (the configuration record, the agents' streams, the environment's answers, the responses).
All of it is plain data. -/

namespace Sys2Proof.Machine

/-- Why the MODEL stops with a fault. A fault of the BLOCK (spec/60_exceptions.md R180) is no such stop:
it is a next state with the fault recorded. -/
inductive Fault where
  /-- An access to a slot storage address that does not exist (R50: only `s < N` and `j < BUFLEN`).
  Raised by DELIVER (a PUSH with no slot at `tail`) and PRODUCE (a view with no slot at `head` or a cursor
  past the slot's end), in states that break R43(b) only. Safe: no reachable state raises it. -/
  | slotOutsideStorage
  deriving DecidableEq, Repr

/-- Why the model has no meaning for an instruction. -/
inductive Refusal where
  /-- An instruction whose meaning is not written: raised by an arm of `exec` alone, and by none now. Safe. -/
  | notModelled (mnemonic : String)
  deriving DecidableEq, Repr

/-- The fault causes of R182. -/
inductive Cause where
  | illegalOpcode
  | illegalOperand
  | notOpen
  | alreadyOpen
  | busy
  | drvProtocol
  | badLength
  | badReg
  deriving DecidableEq, Repr

/-- `life` (R21). -/
inductive Life where
  | closed
  | opened
  deriving DecidableEq, Repr

/-- `host_wait` (R38). -/
inductive HostWait where
  | none
  | stopJoin
  | closeJoin
  deriving DecidableEq, Repr

/-- `cons_wait` (R38). -/
inductive ConsWait where
  | none
  | produce (want : Operand)
  deriving DecidableEq, Repr

/-- Written bytes of slot storage by internal address (R50): addresses strictly rising.
An unlisted address holds no written byte (log 4). -/
abbrev Memory := List Host.Cell

/-- `slots` (R28): the number of the draw that says what OPEN left in the storage, and the bytes written
since. Empty storage, while closed, is draw 0 with nothing written. -/
structure Slots where
  drawn : Nat
  cells : Memory
  deriving DecidableEq, Repr

/-- One complex sample of the output: two binary32 patterns (R12, R53). -/
structure Sample where
  re : Word
  im : Word
  deriving DecidableEq, Repr

/-- A response `(err, value)` with the output payload that only a PRODUCE has (R70, R77, R79). -/
structure Response where
  err     : Bool
  value   : Word
  payload : List Sample
  deriving DecidableEq, Repr

/-- The state `st`: exactly the fields of R20, in its order. -/
structure Block where
  life       : Life       -- R21
  running    : Bool       -- R22
  loopActive : Bool       -- R23
  cancelReq  : Bool       -- R24
  cfgBuffers : Operand    -- R25
  cfgBuflen  : Operand    -- R26
  nSlots     : Operand    -- R27, the rule's N
  buflen     : Operand    -- R27, the rule's BUFLEN
  slots      : Slots      -- R28
  head       : Nat        -- R29
  used       : Nat        -- R30
  offset     : Nat        -- R32
  primed     : Bool       -- R33
  skipRem    : Nat        -- R34
  ovfCount   : Word       -- R35
  drvStatus  : Operand    -- R36
  fault      : Bool       -- R37
  faultCause : BitVec 8   -- R37
  faultInfo  : Word       -- R37
  hostWait   : HostWait   -- R38
  consWait   : ConsWait   -- R38
  deriving DecidableEq, Repr

/-- What stands around `st` and is not `st` (R42): the agents' streams, the environment's answers and
schedule, and the responses given (log 1, 3, 6). -/
structure Io where
  /-- The host's issued commands, oldest first. The head is the current one until it has responded (R38). -/
  hostCmds : List Command
  prodCmds : List Command
  consCmds : List Command
  /-- The responses on the host port, newest first (R77, R214). -/
  hostOut : List Response
  prodOut : List Response
  consOut : List Response
  /-- The environment's choice of the next steps, in order (R57, R211). -/
  sched : List Pick
  /-- The environment's answers OPEN_OK, in order, one per OPEN of a closed block (R102). -/
  openAnswers : List Bool
  /-- How many steps have been taken: names each step's free values. -/
  draws : Nat
  deriving DecidableEq, Repr

/-- The whole state: `st`, the configuration record (which no step writes; log 2), and the rest. -/
structure State where
  st     : Block
  params : Params
  io     : Io
  deriving DecidableEq, Repr

/-- Storage that does not exist: the value of `slots` while closed (R28). -/
def Slots.empty : Slots := ⟨0, []⟩

/-- `st` after a hardware reset (R200). -/
def Block.reset (p : Params) : Block where
  life       := .closed
  running    := false
  loopActive := false
  cancelReq  := false
  cfgBuffers := p.nDefault
  cfgBuflen  := p.buflenDefault
  nSlots     := 0
  buflen     := 0
  slots      := Slots.empty
  head       := 0
  used       := 0
  offset     := 0
  primed     := false
  skipRem    := 0
  ovfCount   := 0
  drvStatus  := 0
  fault      := false
  faultCause := 0
  faultInfo  := 0
  hostWait   := .none
  consWait   := .none

/-- No command issued, no response given, no choice made (log 16). -/
def Io.reset : Io where
  hostCmds    := []
  prodCmds    := []
  consCmds    := []
  hostOut     := []
  prodOut     := []
  consOut     := []
  sched       := []
  openAnswers := []
  draws       := 0

/-- The machine right after reset (R200), with the parameter values this hardware takes (R5). -/
def State.reset : State := ⟨Block.reset Params.hardware, Params.hardware, Io.reset⟩

end Sys2Proof.Machine
end

