-- ==== Sys2Proof/Machine/Ops.lean ====
section
/-! DEFINITION. The shared operations: slot storage, the ring's internal operations PUSH, VIEW and ADVANCE,
the lifecycle updates of `st`, responding, and raising a fault. -/

namespace Sys2Proof.Machine

/-! ### Slot storage (spec/20_memory.md) -/

/-- What an unlisted address holds: no written byte (log 4). -/
def Memory.unlisted : Option Byte := none

/-- The byte written at an address since OPEN, if any. -/
def Memory.read : Memory → Nat → Option Byte
  | [], _ => Memory.unlisted
  | (a, b) :: rest, addr => if a = addr then some b else Memory.read rest addr

/-- Bytes at consecutive addresses. -/
def Memory.cellsFrom : Nat → List Byte → Memory
  | _, []      => []
  | a, b :: bs => (a, b) :: Memory.cellsFrom (a + 1) bs

/-- The one write the storage has (R54): a block of bytes, in place of what stood at its addresses. -/
def Memory.writeBlock (m : Memory) (base : Nat) (bytes : List Byte) : Memory :=
  m.filter (fun c => decide (c.1 < base)) ++
    (Memory.cellsFrom base bytes ++ m.filter (fun c => decide (base + bytes.length ≤ c.1)))

/-- The canonical form: addresses strictly rising. No entry can equal what an unlisted address reads as,
since that is no byte. -/
abbrev Memory.wf (m : Memory) : Prop := m.Pairwise (fun x y => x.1 < y.1)

/-- The internal address of byte `j` of slot `s` (R50). -/
def Block.slotAddr (st : Block) (s j : Nat) : Nat := s * st.buflen.toNat + j

/-- Whether slot `s` exists: `0 ≤ s < N` (R50). -/
def Block.slotExists (st : Block) (s : Nat) : Bool := decide (s < st.nSlots.toNat)

/-- `S = BUFLEN / 4`, the samples of a slot (R6). -/
def Block.slotSamples (st : Block) : Nat := st.buflen.toNat / 4

/-- The byte of slot storage at an address: what was written there since OPEN, else what OPEN left there,
which is any value (R28). -/
def Block.storageByte (st : Block) (addr : Nat) : Byte :=
  (Memory.read st.slots.cells addr).getD (Config.freeSlotByte st.slots.drawn addr)

/-- `SlotRead(s, j, n)` (R8). -/
def Block.slotRead (st : Block) (s j n : Nat) : List Byte :=
  (List.range n).map (fun k => st.storageByte (st.slotAddr s (j + k)))

/-- `SlotWrite(s, bytes)` (R8). -/
def Block.slotWrite (st : Block) (s : Nat) (bytes : List Byte) : Block :=
  { st with slots := { st.slots with cells := Memory.writeBlock st.slots.cells (st.slotAddr s 0) bytes } }

/-! ### The ring (spec/41_producer.md R122, R123; spec/42_consumer.md R144, R145) -/

/-- `tail = (head + used) mod N` (R31), as PUSH computes it. -/
def Block.tail (st : Block) : Nat := (st.head + st.used) % st.nSlots.toNat

/-- The `used = N` branch of PUSH: drop the oldest block (R123). -/
def Block.dropOldest (st : Block) : Block :=
  { st with
    head     := (st.head + 1) % st.nSlots.toNat
    offset   := 0
    ovfCount := st.ovfCount + 1 }

/-- PUSH (R122): write the slot at `tail`, then drop the oldest block or count one more. -/
def Block.push (st : Block) (bytes : List Byte) : Block :=
  let written := st.slotWrite st.tail bytes
  if st.used = st.nSlots.toNat then written.dropOldest
  else { written with used := st.used + 1 }

/-- VIEW (R144): the slot at `head` and the cursor within it. -/
def Block.view (st : Block) : Nat × Nat := (st.head, st.offset)

/-- ADVANCE (R145). -/
def Block.advance (st : Block) : Block :=
  { st with
    head   := (st.head + 1) % st.nSlots.toNat
    used   := st.used - 1
    offset := 0 }

/-! ### Lifecycle updates of `st` (spec/40_control.md, spec/41_producer.md) -/

/-- The state change of a successful OPEN (R102). `drawn` names the draw of the slot contents. -/
def Block.allocate (st : Block) (drawn : Nat) : Block :=
  { st with
    life       := .opened
    nSlots     := st.cfgBuffers
    buflen     := st.cfgBuflen
    slots      := ⟨drawn, []⟩
    head       := 0
    used       := 0
    offset     := 0
    primed     := false
    skipRem    := 0
    running    := false
    loopActive := false
    cancelReq  := false
    ovfCount   := 0
    drvStatus  := 0 }

/-- The state change of START (R103). -/
def Block.beginStream (st : Block) (skipK : Nat) : Block :=
  { st with
    head       := 0
    used       := 0
    offset     := 0
    primed     := false
    skipRem    := skipK
    drvStatus  := 0
    cancelReq  := false
    running    := true
    loopActive := true }

/-- Cancel: the stream is stopped, the driver is asked to end its loop, and the host port holds
(R104, R106). -/
def Block.cancel (st : Block) (wait : HostWait) : Block :=
  { st with
    running   := false
    cancelReq := true
    hostWait  := wait }

/-- The end of a STOP's join (R105). -/
def Block.joined (st : Block) : Block :=
  { st with
    cancelReq := false
    hostWait  := .none }

/-- `Free()` (R106). -/
def Block.free (st : Block) : Block :=
  { st with
    cancelReq := false
    running   := false
    life      := .closed
    slots     := Slots.empty
    nSlots    := 0
    buflen    := 0
    head      := 0
    used      := 0
    offset    := 0
    primed    := false
    skipRem   := 0 }

/-- The read loop has returned (R124). -/
def Block.loopExit (st : Block) (status : Operand) : Block :=
  { st with
    loopActive := false
    running    := false
    drvStatus  := status }

/-! ### Responses and faults (spec/30_encoding.md R77; spec/60_exceptions.md R181, R182) -/

/-- The cause codes of R182. -/
def Cause.code : Cause → BitVec 8
  | .illegalOpcode  => 1
  | .illegalOperand => 2
  | .notOpen        => 3
  | .alreadyOpen    => 4
  | .busy           => 5
  | .drvProtocol    => 6
  | .badLength      => 7
  | .badReg         => 8

/-- The cause of a word that is no command (R73, R75, R76, R182). -/
def rejectCause : Reject → Cause
  | .reservedOpcode => .illegalOpcode
  | .wrongPort      => .illegalOpcode
  | .illegalOperand => .illegalOperand

/-- The response `(0, value)` with no payload (R77). -/
def Response.ok (value : Word) : Response := ⟨false, value, []⟩

/-- The response `(1, zext_32(cause))` of a faulting command (R77, R181). -/
def Response.fault (c : Cause) : Response := ⟨true, c.code.setWidth 32, []⟩

/-- The value of an end-of-stream response: EOS set, count 0 (R78). -/
def eosValue : Word := 0x80000000

/-- The response of a PRODUCE that emitted samples: EOS 0 and the count in bits 27:0 (R78, R79). -/
def Response.samples (out : List Sample) : Response := ⟨false, BitVec.ofNat 32 out.length, out⟩

/-- A port's stream of commands, the current one first. -/
def Io.cmds (io : Io) : Port → List Command
  | .host     => io.hostCmds
  | .producer => io.prodCmds
  | .consumer => io.consCmds

/-- A port's responses, the newest first. -/
def Io.out (io : Io) : Port → List Response
  | .host     => io.hostOut
  | .producer => io.prodOut
  | .consumer => io.consOut

/-- A port answers its current command, which leaves the port's stream (R38, R70). -/
def Io.answer (io : Io) (p : Port) (r : Response) : Io :=
  match p with
  | .host     => { io with hostCmds := io.hostCmds.tail, hostOut := r :: io.hostOut }
  | .producer => { io with prodCmds := io.prodCmds.tail, prodOut := r :: io.prodOut }
  | .consumer => { io with consCmds := io.consCmds.tail, consOut := r :: io.consOut }

/-- `rsp <- (err, value)` (R8, R77), with what the command did to `st`. -/
def State.respond (s : State) (p : Port) (r : Response) (st : Block) : State :=
  { s with st := st, io := s.io.answer p r }

/-- The fault record of R181: only the first fault's cause and word are kept. -/
def Block.recordFault (st : Block) (c : Cause) (w : Word) : Block :=
  if st.fault = true then st
  else { st with fault := true, faultCause := c.code, faultInfo := w }

/-- `raise Fault(cause, w)` of a command on a port (R181): the record, the response, and nothing else.
There is no handler to enter, and so no return from one (R180, R184, R185). -/
def State.raiseFault (s : State) (p : Port) (c : Cause) (w : Word) : State :=
  s.respond p (Response.fault c) (s.st.recordFault c w)

/-! ### The environment's choices (spec/10_state.md R42) -/

/-- The step the environment offers next: the head of its schedule, a free value where it has none
(R57; log 1). -/
def State.nextPick (s : State) : Pick :=
  match s.io.sched with
  | p :: _ => p
  | []     => Config.freePick s.io.draws

/-- A step is taken: the schedule moves on, and the step has draws of its own. -/
def State.tick (s : State) : State :=
  { s with io := { s.io with sched := s.io.sched.tail, draws := s.io.draws + 1 } }

/-- `draw ok` of OPEN: the environment's answer (R102), a free value where it gives none (log 3). -/
def State.openOk (s : State) : Bool :=
  match s.io.openAnswers with
  | b :: _ => b
  | []     => Config.freeOpenOk s.io.draws

/-- The answer has been drawn. -/
def State.useOpenAnswer (s : State) : State :=
  { s with io := { s.io with openAnswers := s.io.openAnswers.tail } }

/-- A port's stream after a hardware reset: what was issued stays issued, and a command that held stays
or is lost by a free choice of its own (log 8). -/
def streamAfterReset (held survives : Bool) (cmds : List Command) : List Command :=
  if held = true ∧ survives = false then cmds.tail else cmds

/-- Hardware reset (R200): every field of `st` takes its reset value. The rule speaks of `st` alone. That streams and
responses stay, and that what becomes of a held STOP or CLOSE and of a held PRODUCE are two independent free choices,
is the model's choice (DESIGN CHOICE, log 8). -/
def State.hardwareReset (s : State) : State :=
  let survives := Config.freeHeldSurvivesReset s.io.draws
  { s with
    st := Block.reset s.params
    io := { s.io with
      hostCmds := streamAfterReset (decide (s.st.hostWait ≠ .none)) (survives .host) s.io.hostCmds
      consCmds := streamAfterReset (decide (s.st.consWait ≠ .none)) (survives .consumer) s.io.consCmds } }

/-- Which port a word is for: the one that accepts its opcode, the host port for a reserved one. -/
def wordPort (w : Word) : Port :=
  match opcodeOf (opField w) with
  | some op => op.port
  | none    => .host

/-- Present a word, with no payload data, on the port that accepts it, as that port's current command, and offer
that port's step next. A hold of that port is set aside. -/
def State.present (s : State) (w : Word) : State :=
  match wordPort w with
  | .host     => { s with
                   st := { s.st with hostWait := .none }
                   io := { s.io with hostCmds := ⟨w, []⟩ :: s.io.hostCmds, sched := .host :: s.io.sched } }
  | .producer => { s with
                   io := { s.io with prodCmds := ⟨w, []⟩ :: s.io.prodCmds, sched := .producer :: s.io.sched } }
  | .consumer => { s with
                   st := { s.st with consWait := .none }
                   io := { s.io with consCmds := ⟨w, []⟩ :: s.io.consCmds, sched := .consumer :: s.io.sched } }

end Sys2Proof.Machine
end

