-- ==== Sys2Proof/Machine/Converter.lean ====
section
/-! DEFINITION. The sample converter (spec/43_converter.md R160 to R166): a pure function of four raw bytes.
Every result is exact, so there is no rounding (R163). -/

namespace Sys2Proof.Machine

/-- `sint16`: two's complement (R7, R161). -/
def sint16 (h : Half) : Int := h.toInt

/-- The exponent `e` of `m = f · 2^e`, `1 ≤ f < 2`, for `m < 2^(k+1)` (R164). -/
def topBit : Nat → Nat → Nat
  | 0, _     => 0
  | k + 1, m => if 2 ^ (k + 1) ≤ m then k + 1 else topBit k m

/-- The binary32 pattern of sign, exponent field and fraction field: bits 31, 30:23 and 22:0 (R164). -/
def binary32 (negative : Bool) (expField fraction : Nat) : Word :=
  BitVec.ofBool negative ++ BitVec.ofNat 8 expField ++ BitVec.ofNat 23 fraction

/-- `ToF32(v) · 2^(−shift)` for a 16-bit code `v` (R162, R164): +0.0 for 0, else sign, exponent `e − shift + 127`
and fraction `(m − 1) · 2^23` where `|v| = m · 2^e`. -/
def scaleCode (shift : Nat) (v : Int) : Word :=
  if v = 0 then 0
  else
    let e := topBit 15 v.natAbs
    binary32 (decide (v < 0)) (e + 127 - shift) ((v.natAbs - 2 ^ e) * 2 ^ (23 - e))

/-- A 16-bit code from two bytes in address order (R52). -/
def rawCode (endian : Endian) (first second : Byte) : Half :=
  match endian with
  | .little => second ++ first
  | .big    => first ++ second

/-- `Convert(b0, b1, b2, b3)` (R160): I from the first pair, Q from the second. -/
def convert (p : Params) (b0 b1 b2 b3 : Byte) : Sample :=
  ⟨scaleCode p.scaleShift (sint16 (rawCode p.rawEndian b0 b1)),
   scaleCode p.scaleShift (sint16 (rawCode p.rawEndian b2 b3))⟩

/-- A word as four bytes, least significant first (R53). -/
def wordBytes (w : Word) : List Byte :=
  [w.extractLsb' 0 8, w.extractLsb' 8 8, w.extractLsb' 16 8, w.extractLsb' 24 8]

/-- The 8 bytes of an output sample: real part, then imaginary part (R53). -/
def Sample.bytes (z : Sample) : List Byte := wordBytes z.re ++ wordBytes z.im

/-- The output payload of a response as bytes, in sample order (R53, R79). -/
def Response.payloadBytes (r : Response) : List Byte := r.payload.flatMap Sample.bytes

/-- The samples of a raw block, in order (R52); bytes past the last whole sample are none. -/
def blockSamples (p : Params) : List Byte → List Sample
  | b0 :: b1 :: b2 :: b3 :: rest => convert p b0 b1 b2 b3 :: blockSamples p rest
  | _ => []

/-- Sample `i` of slot `s`, converted: `SlotRead(s, 4·i, 4)` and Convert (R143). -/
def Block.slotSample (st : Block) (p : Params) (s i : Nat) : Sample :=
  convert p (st.storageByte (st.slotAddr s (4 * i))) (st.storageByte (st.slotAddr s (4 * i + 1)))
    (st.storageByte (st.slotAddr s (4 * i + 2))) (st.storageByte (st.slotAddr s (4 * i + 3)))

end Sys2Proof.Machine
end

