-- ==== Sys2Proof/Machine/Consumer.lean ====
section
/-! DEFINITION. The consumer port's command PRODUCE (spec/42_consumer.md R140 to R149). -/

namespace Sys2Proof.Machine

/-- `Ready(st)`: the prefill hold is released (R141, R148). -/
def Block.ready (st : Block) (p : Params) : Bool :=
  decide (st.running = false ∨ p.minPrefill ≤ st.used ∨ (p.prefillMode = .once ∧ st.primed = true))

/-- `primed <- true` where the threshold is met (R142(c)). -/
def Block.prime (st : Block) (p : Params) : Block :=
  if p.minPrefill ≤ st.used then { st with primed := true } else st

/-- One turn of the drain loop: `take` samples are emitted from the slot at `head` (R143). -/
def Block.emit (st : Block) (p : Params) (take : Nat) : List Sample :=
  (List.range take).map (fun k => st.slotSample p st.view.1 (st.view.2 + k))

/-- The cursor after `take` samples: past the slot's end it is the next slot (R143, R145). -/
def Block.moveCursor (st : Block) (take : Nat) : Block :=
  if st.offset + take = st.slotSamples then st.advance
  else { st with offset := st.offset + take }

/-- Drain (R143): up to `rem` samples, block by block. Each turn but the last frees a block, so `fuel = used`
turns are all there can be. -/
def drainLoop (p : Params) : Nat → Nat → Block → Block × List Sample
  | 0, _, st => (st, [])
  | fuel + 1, rem, st =>
    if rem = 0 ∨ st.used = 0 then (st, [])
    else
      let take := min rem (st.slotSamples - st.offset)
      let later := drainLoop p fuel (rem - take) (st.moveCursor take)
      (later.1, st.emit p take ++ later.2)

/-- The drain of a PRODUCE of `want` samples. -/
def Block.drain (st : Block) (p : Params) (want : Operand) : Block × List Sample :=
  drainLoop p st.used want.toNat st

/-- Whether the drain's first view is of storage that exists: `head < N` and `offset < S` (R43(b), R50).
A drain that emits nothing views nothing. -/
def Block.viewExists (st : Block) (want : Operand) : Bool :=
  decide (want = 0 ∨ st.used = 0 ∨ (st.slotExists st.head = true ∧ st.offset < st.slotSamples))

/-- PRODUCE after its hold (R140, R142, R143): NOT_OPEN, end-of-stream, prime, drain. -/
def State.produceReady (s : State) (want : Operand) : Host.Outcome State Fault Refusal :=
  match s.st.life with
  | .closed => .next (s.raiseFault .consumer .notOpen (encode (.produce want)))
  | .opened =>
    if s.st.used = 0 ∧ s.st.running = false then
      .next (s.respond .consumer (Response.ok eosValue) s.st)
    else if s.st.viewExists want = true then
      let done := (s.st.prime s.params).drain s.params want
      .next (s.respond .consumer (Response.samples done.2) done.1)
    else .fault .slotOutsideStorage

/-- The consumer port's hold as a field of `st` (R38, R141). -/
def State.withConsWait (s : State) (cw : ConsWait) : State := { s with st := { s.st with consWait := cw } }

/-- PRODUCE (R140): it holds until Ready, and a held PRODUCE that is ready runs by the same rule (R141, R61). -/
def execProduce (want : Operand) (s : State) : Host.Outcome State Fault Refusal :=
  if s.st.ready s.params = true then (s.withConsWait .none).produceReady want
  else .next (s.withConsWait (.produce want))

/-- The timeout step of a held PRODUCE (R147): it answers `(0, 0)` and changes nothing but the hold.
DESIGN CHOICE (log 9): R147's "changes no state" is read as: no field but `cons_wait`.
Where PREFILL_TIMEOUT is off, or no PRODUCE that is not ready holds, no such step exists (R147); the pick is then the idle
step of log 10. -/
def State.prefillTimeout (s : State) : State :=
  match s.st.consWait with
  | .none      => s
  | .produce _ =>
    if s.params.prefillTimeout = true ∧ s.st.ready s.params = false then
      s.respond .consumer (Response.ok 0) { s.st with consWait := .none }
    else s

end Sys2Proof.Machine
end

