-- ==== Sys2Proof/Machine/Flags.lean ====
section
/-! DEFINITION. The STATE register's bits (spec/10_state.md R40, R41) and the registers that READ_REG reads
(R39). There are no condition codes: these bits are the block's flags, and all of them are derived. -/

namespace Sys2Proof.Machine

/-- Bit 6, FULL (R40). -/
def Block.isFull (st : Block) : Bool := decide (st.life = .opened ∧ st.used = st.nSlots.toNat)

/-- Bit 7, EMPTY (R40). -/
def Block.isEmpty (st : Block) : Bool := decide (st.used = 0)

/-- One flag at its bit of a register. -/
def flagAt (bit : Nat) (b : Bool) : Word := if b = true then 1#32 <<< bit else 0#32

/-- The STATE register, selector 0x0 (R40). -/
def Block.stateWord (st : Block) : Word :=
  flagAt 0 (decide (st.life = .opened)) |||
  flagAt 1 st.running |||
  flagAt 2 st.loopActive |||
  flagAt 3 st.cancelReq |||
  flagAt 4 st.primed |||
  flagAt 5 st.fault |||
  flagAt 6 st.isFull |||
  flagAt 7 st.isEmpty

/-- TAIL as READ_REG returns it: 0 while closed (R31, R39). -/
def Block.tailRegister (st : Block) : Nat :=
  match st.life with
  | .closed => 0
  | .opened => st.tail

/-- The register of a selector, zero-extended to 32 bits; none outside 0x0 to 0xD (R39).
The selector is the whole operand. -/
def Block.register (st : Block) (sel : Operand) : Option Word :=
  match sel with
  | 0x0#28 => some st.stateWord
  | 0x1#28 => some (st.cfgBuffers.setWidth 32)
  | 0x2#28 => some (st.cfgBuflen.setWidth 32)
  | 0x3#28 => some (st.nSlots.setWidth 32)
  | 0x4#28 => some (st.buflen.setWidth 32)
  | 0x5#28 => some (BitVec.ofNat 32 st.head)
  | 0x6#28 => some (BitVec.ofNat 32 st.used)
  | 0x7#28 => some (BitVec.ofNat 32 st.tailRegister)
  | 0x8#28 => some (BitVec.ofNat 32 st.offset)
  | 0x9#28 => some (BitVec.ofNat 32 st.skipRem)
  | 0xA#28 => some st.ovfCount
  | 0xB#28 => some (st.drvStatus.setWidth 32)
  | 0xC#28 => some (st.faultCause.setWidth 32)
  | 0xD#28 => some st.faultInfo
  | _      => none

end Sys2Proof.Machine
end

