-- ==== Sys2Proof/Machine/Operands.lean ====
section
/-! DEFINITION. What operands and payloads stand for (spec/30_encoding.md R72, R79).
Every operand is an unsigned 28-bit number, never sign-extended, scaled or shifted. -/

namespace Sys2Proof.Machine

/-- The slot count that CFG_BUFFERS stores: 0 is forced to the default (R100). -/
def legalBuffers (p : Params) (n : Operand) : Operand := if n = 0 then p.nDefault else n

/-- The slot length that CFG_BUFLEN stores: 0 and a value that is no multiple of the granule are forced to
the default (R101). -/
def legalBuflen (p : Params) (b : Operand) : Operand :=
  if b = 0 ∨ b.toNat % p.buflenGranule ≠ 0 then p.buflenDefault else b

/-- Exactly `n` payload bytes, from index `j` on: the bytes the Producer's data gives, and free values after
its end (R79, R42; log 5). -/
def fillPayload (draw : Nat) : Nat → Nat → List Byte → List Byte
  | 0, _, _          => []
  | n + 1, j, b :: bs => b :: fillPayload draw n (j + 1) bs
  | n + 1, j, []      => Config.freePayloadByte draw j :: fillPayload draw n (j + 1) []

/-- The payload `P` of the producer port's current command, `len` bytes long (R79, R120). -/
def State.deliveredPayload (s : State) (len : Operand) : List Byte :=
  match s.io.prodCmds with
  | c :: _ => fillPayload s.io.draws len.toNat 0 c.payload
  | []     => fillPayload s.io.draws len.toNat 0 []

end Sys2Proof.Machine
end

