-- ==== Sys2Proof/Machine/Control.lean ====
section
/-! DEFINITION. The host port's commands (spec/40_control.md R100 to R109). -/

namespace Sys2Proof.Machine

/-- CFG_BUFFERS (R100). -/
def execCfgBuffers (n : Operand) (s : State) : Host.Outcome State Fault Refusal :=
  .next (s.respond .host (Response.ok 0) { s.st with cfgBuffers := legalBuffers s.params n })

/-- CFG_BUFLEN (R101). -/
def execCfgBuflen (b : Operand) (s : State) : Host.Outcome State Fault Refusal :=
  .next (s.respond .host (Response.ok 0) { s.st with cfgBuflen := legalBuflen s.params b })

/-- Whether the ring that OPEN would allocate exceeds the storage (R51, R102). -/
def State.ringTooBig (s : State) : Bool :=
  decide (s.params.ringBytesMax < s.st.cfgBuffers.toNat * s.st.cfgBuflen.toNat)

/-- Whether an OPEN of a closed block succeeds: the device opens and the ring fits (R102). -/
def State.opens (s : State) : Bool := s.openOk && !s.ringTooBig

/-- OPEN of a closed block, with its draw (R102): a failed open answers 1 and changes nothing of `st`. -/
def State.openClosed (s : State) : State :=
  s.useOpenAnswer.respond .host (Response.ok (if s.opens = true then 0 else 1))
    (if s.opens = true then s.st.allocate s.io.draws else s.st)

/-- OPEN (R102). -/
def execOpenDevice (s : State) : Host.Outcome State Fault Refusal :=
  match s.st.life with
  | .opened => .next (s.raiseFault .host .alreadyOpen (encode .openDevice))
  | .closed => .next s.openClosed

/-- START (R103): NOT_OPEN before BUSY. -/
def execStart (s : State) : Host.Outcome State Fault Refusal :=
  match s.st.life with
  | .closed => .next (s.raiseFault .host .notOpen (encode .start))
  | .opened =>
    if s.st.loopActive = true then .next (s.raiseFault .host .busy (encode .start))
    else .next (s.respond .host (Response.ok 0) (s.st.beginStream s.params.skipK))

/-- STOP, issue step (R104): with nothing to stop it answers, else it cancels and holds. -/
def execStop (s : State) : Host.Outcome State Fault Refusal :=
  if s.st.life = .closed ∨ s.st.loopActive = false then .next (s.respond .host (Response.ok 0) s.st)
  else .next { s with st := s.st.cancel .stopJoin }

/-- STOP, completion step (R105). -/
def State.completeStop (s : State) : State := s.respond .host (Response.ok 0) s.st.joined

/-- CLOSE, issue step (R106): answers while closed, cancels and holds while the loop is active, else frees. -/
def execClose (s : State) : Host.Outcome State Fault Refusal :=
  match s.st.life with
  | .closed => .next (s.respond .host (Response.ok 0) s.st)
  | .opened =>
    if s.st.loopActive = true then .next { s with st := s.st.cancel .closeJoin }
    else .next (s.respond .host (Response.ok 0) s.st.free)

/-- CLOSE, completion step (R107). -/
def State.completeClose (s : State) : State :=
  s.respond .host (Response.ok 0) { s.st.free with hostWait := .none }

/-- READ_REG (R108). -/
def execReadReg (sel : Operand) (s : State) : Host.Outcome State Fault Refusal :=
  match s.st.register sel with
  | some v => .next (s.respond .host (Response.ok v) s.st)
  | none   => .next (s.raiseFault .host .badReg (encode (.readReg sel)))

end Sys2Proof.Machine
end

