-- ==== Sys2Proof/Machine/Producer.lean ====
section
/-! DEFINITION. The producer port's commands (spec/41_producer.md R120 to R126). Neither ever holds (R125). -/

namespace Sys2Proof.Machine

/-- The PUSH of a DELIVER (R120, R122). With no slot at `tail` there is no address to write (R50; log 7). -/
def State.deliverPush (s : State) (len : Operand) : Host.Outcome State Fault Refusal :=
  if s.st.slotExists s.st.tail = true then
    .next (s.respond .producer (Response.ok 0) (s.st.push (s.deliveredPayload len)))
  else .fault .slotOutsideStorage

/-- DELIVER (R120): the protocol checks, the discard after cancel, the initial skip (R121), then PUSH. -/
def execDeliver (len : Operand) (s : State) : Host.Outcome State Fault Refusal :=
  if s.st.loopActive = false then .next (s.raiseFault .producer .drvProtocol (encode (.deliver len)))
  else if len ≠ s.st.buflen then .next (s.raiseFault .producer .badLength (encode (.deliver len)))
  else if s.st.running = false then .next (s.respond .producer (Response.ok 0) s.st)
  else if 0 < s.st.skipRem then
    .next (s.respond .producer (Response.ok 0) { s.st with skipRem := s.st.skipRem - 1 })
  else s.deliverPush len

/-- DRV_EXIT (R124). -/
def execDrvExit (status : Operand) (s : State) : Host.Outcome State Fault Refusal :=
  if s.st.loopActive = false then .next (s.raiseFault .producer .drvProtocol (encode (.drvExit status)))
  else .next (s.respond .producer (Response.ok 0) (s.st.loopExit status))

end Sys2Proof.Machine
end

