-- ==== Sys2Proof/Machine/Dispatch.lean ====
section
/-! DEFINITION. The dispatch of a decoded command to its meaning (spec/30_encoding.md R74, R82). -/

namespace Sys2Proof.Machine

def exec (i : Instr) (s : State) : Host.Outcome State Fault Refusal :=
  match i with
  | .cfgBuffers n => Sys2Proof.Machine.execCfgBuffers n s
  | .cfgBuflen b => Sys2Proof.Machine.execCfgBuflen b s
  | .openDevice => Sys2Proof.Machine.execOpenDevice s
  | .start => Sys2Proof.Machine.execStart s
  | .stop => Sys2Proof.Machine.execStop s
  | .close => Sys2Proof.Machine.execClose s
  | .readReg sel => Sys2Proof.Machine.execReadReg sel s
  | .deliver len => Sys2Proof.Machine.execDeliver len s
  | .drvExit status => Sys2Proof.Machine.execDrvExit status s
  | .produce want => Sys2Proof.Machine.execProduce want s

end Sys2Proof.Machine
end

