-- ==== Sys2Proof/Machine/Schedule.lean ====
section
/-! DEFINITION. The steps of the ports (spec/10_state.md R38, spec/20_memory.md R57, R61) and which of them
the environment picks. A step that is not enabled leaves `st` and the ports as they are (log 10). -/

namespace Sys2Proof.Machine

/-- The command step of a port: decode its current command (R82), then run it or raise the fault of the first
failing check. With no command issued nothing happens. -/
def State.commandStep (s : State) (p : Port) : Host.Outcome State Fault Refusal :=
  match s.io.cmds p with
  | []     => .next s
  | c :: _ =>
    match decodeOn p c.word with
    | .instr i  => exec i s
    | .reject r => .next (s.raiseFault p (rejectCause r) c.word)

/-- The host port's step: a waiting STOP or CLOSE completes once the loop has exited (R105, R107); with none
waiting, the next command (R38). -/
def State.hostStep (s : State) : Host.Outcome State Fault Refusal :=
  match s.st.hostWait with
  | .none      => s.commandStep .host
  | .stopJoin  => .next (if s.st.loopActive = true then s else s.completeStop)
  | .closeJoin => .next (if s.st.loopActive = true then s else s.completeClose)

/-- The producer port's step. The producer port never holds (R38, R125). -/
def State.producerStep (s : State) : Host.Outcome State Fault Refusal := s.commandStep .producer

/-- The consumer port's step: a held PRODUCE is tried again (R61, R141); with none held, the next command. -/
def State.consumerStep (s : State) : Host.Outcome State Fault Refusal :=
  match s.st.consWait with
  | .none         => s.commandStep .consumer
  | .produce want => exec (.produce want) s

/-- The step of a pick. -/
def State.pickStep (s : State) (p : Pick) : Host.Outcome State Fault Refusal :=
  match p with
  | .host     => s.hostStep
  | .producer => s.producerStep
  | .consumer => s.consumerStep
  | .timeout  => .next s.prefillTimeout
  | .reset    => .next s.hardwareReset

end Sys2Proof.Machine
end

