-- ==== Sys2Proof/Machine/Step.lean ====
section
/-! DEFINITION. One step of the machine: the environment's next pick, taken (spec/20_memory.md R57). -/

namespace Sys2Proof.Machine

/-- One step. -/
def step (s : State) : Host.Outcome State Fault Refusal := s.tick.pickStep s.nextPick

/-- The state whose next step runs the command word `w` of `nbits` bits: the word is presented on the port that
accepts it (log 11). -/
def State.withFetchWord (s : State) (nbits w : Nat) : State := s.present (BitVec.ofNat 32 (w % 2 ^ nbits))

end Sys2Proof.Machine
end

