-- ==== Sys2Proof/Safety.lean ====
section
/-! DEFINITION. What counts as a safe run, and the terms claims are stated in: the invariant of
spec/10_state.md R43, the ring's contents as a queue (spec/20_memory.md R60), answering a command, ended and
faulted runs (spec/60_exceptions.md R195, spec/70_reset_and_hazards.md R212, R214), enabled steps, runs and weak fairness (R211), and the number a binary32
pattern stands for (spec/00_scope.md R12). -/

namespace Sys2Proof.Machine

/-- R43 for `st`, with what R25, R26, R34, R50 and R54 say of its other fields.
Clause (e) is stated as "written since OPEN": which stream a write belongs to is not state (log 14). -/
structure Block.Inv (p : Params) (st : Block) : Prop where
  /-- The parameters meet the constraints of R5. -/
  paramsWf : p.wf
  /-- R25: "a written 0 reads back as N_DEFAULT". -/
  cfgBuffersLegal : st.cfgBuffers ≠ 0
  /-- R26: no illegal slot length is ever pending. -/
  cfgBuflenLegal : st.cfgBuflen ≠ 0 ∧ st.cfgBuflen.toNat % p.buflenGranule = 0
  /-- R43(a). -/
  closedIsEmpty : st.life = .closed →
    st.nSlots = 0 ∧ st.buflen = 0 ∧ st.used = 0 ∧ st.head = 0 ∧ st.offset = 0 ∧
    st.running = false ∧ st.loopActive = false ∧ st.primed = false ∧ st.slots = Slots.empty
  /-- R43(b). -/
  openGeometry : st.life = .opened →
    1 ≤ st.nSlots.toNat ∧ 512 ≤ st.buflen.toNat ∧ st.buflen.toNat % 512 = 0 ∧
    st.head < st.nSlots.toNat ∧ st.used ≤ st.nSlots.toNat ∧ st.offset < st.slotSamples
  /-- R43(c). -/
  cursorOfEmpty : st.used = 0 → st.offset = 0
  /-- R43(d), first half. -/
  runningHasLoop : st.running = true → st.loopActive = true
  /-- R43(d), second half. -/
  stoppingWaits : st.loopActive = true → st.running = false → st.cancelReq = true ∧ st.hostWait ≠ .none
  /-- R43(e): every byte of every filled slot was written by a PUSH. -/
  filledSlotsWritten : ∀ i, i < st.used → ∀ j, j < st.buflen.toNat →
    (Memory.read st.slots.cells (st.slotAddr ((st.head + i) % st.nSlots.toNat) j)).isSome = true
  /-- R34. -/
  skipBounded : st.skipRem ≤ p.skipK
  /-- The canonical form of the written bytes. -/
  cellsWf : Memory.wf st.slots.cells
  /-- R50: no byte stands outside the storage. -/
  cellsInside : ∀ c ∈ st.slots.cells, c.1 < st.nSlots.toNat * st.buflen.toNat

/-- R38: a hold is that of the port's current command. -/
structure State.HoldsMatch (s : State) : Prop where
  stopHeld : s.st.hostWait = .stopJoin → ∃ c rest, s.io.hostCmds = c :: rest ∧ c.word = encode .stop
  closeHeld : s.st.hostWait = .closeJoin → ∃ c rest, s.io.hostCmds = c :: rest ∧ c.word = encode .close
  produceHeld : ∀ want, s.st.consWait = .produce want →
    ∃ c rest, s.io.consCmds = c :: rest ∧ c.word = encode (.produce want)

/-- The invariant of the machine. -/
structure State.Inv (s : State) : Prop where
  block : s.st.Inv s.params
  holds : s.HoldsMatch

/-- The unconsumed samples of the ring, converted, oldest first: the filled slots in order from `head`, less the
`offset` samples already emitted (R60, R32). -/
def Block.pending (st : Block) (p : Params) : List Sample :=
  ((List.range st.used).flatMap (fun i =>
    (List.range st.slotSamples).map (fun k => st.slotSample p ((st.head + i) % st.nSlots.toNat) k))).drop st.offset

/-- `used · S − offset`: how many samples are available (R44, R146(a)). -/
def Block.available (st : Block) : Nat := st.used * st.slotSamples - st.offset

/-- From `s` to `t` port `p` answered its current command with `r`, and nothing else happened outside `st`
(R38, R70, R77). -/
structure Answered (s t : State) (p : Port) (r : Response) : Prop where
  response : t.io.out p = r :: s.io.out p
  taken : t.io.cmds p = (s.io.cmds p).tail
  otherPorts : ∀ q, q ≠ p → t.io.out q = s.io.out q ∧ t.io.cmds q = s.io.cmds q
  sameParams : t.params = s.params
  sameChoices : t.io.sched = s.io.sched ∧ t.io.openAnswers = s.io.openAnswers ∧ t.io.draws = s.io.draws

/-- From `s` to `t` nothing happened outside `st`: no port answered. -/
def Unanswered (s t : State) : Prop := t.io = s.io ∧ t.params = s.params

/-- Every byte of slot storage reads as before. -/
def SameStorage (s t : State) : Prop := ∀ a, t.st.storageByte a = s.st.storageByte a

/-- From `s` to `t` the command of word `w` on port `p` faulted with cause `c`: R181, whole. -/
structure Faulted (s t : State) (p : Port) (c : Cause) (w : Word) : Prop where
  answered : Answered s t p ⟨true, c.code.setWidth 32, []⟩
  recorded : s.st.fault = false → t.st.fault = true ∧ t.st.faultCause = c.code ∧ t.st.faultInfo = w
  kept : s.st.fault = true →
    t.st.fault = true ∧ t.st.faultCause = s.st.faultCause ∧ t.st.faultInfo = s.st.faultInfo
  nothingElse : { t.st with fault := s.st.fault, faultCause := s.st.faultCause, faultInfo := s.st.faultInfo } = s.st

/-- The table of R200, one line per field. -/
structure ResetTable (p : Params) (st : Block) : Prop where
  life : st.life = .closed
  running : st.running = false
  loopActive : st.loopActive = false
  cancelReq : st.cancelReq = false
  cfgBuffers : st.cfgBuffers = p.nDefault
  cfgBuflen : st.cfgBuflen = p.buflenDefault
  geometry : st.nSlots = 0 ∧ st.buflen = 0
  slots : st.slots.cells = []
  ring : st.head = 0 ∧ st.used = 0 ∧ st.offset = 0
  primed : st.primed = false
  skipRem : st.skipRem = 0
  ovfCount : st.ovfCount = 0
  drvStatus : st.drvStatus = 0
  record : st.fault = false ∧ st.faultCause = 0 ∧ st.faultInfo = 0
  holds : st.hostWait = .none ∧ st.consWait = .none

/-- R195: a faulted state is never a good final state. -/
def State.faulted (s : State) : Prop := s.st.fault = true

/-- R214: a run has ended, in this state.
DESIGN CHOICE (log 21): "no agent has a command left to issue" is read as: no issued command is left, every stream being
empty. R211 leaves issuing free, so a run (`IsRun`) in which an agent issues again after such a state goes on; it is then
not ended until its streams are empty again. -/
def State.ended (s : State) : Prop :=
  s.st.hostWait = .none ∧ s.st.consWait = .none ∧ s.st.loopActive = false ∧
  s.io.hostCmds = [] ∧ s.io.prodCmds = [] ∧ s.io.consCmds = []

/-- R214: it has ended well (`State.ended`, log 21). -/
def State.endedWell (s : State) : Prop := s.ended ∧ ¬ s.faulted

/-- The pick that offers a port's step (log 1). -/
def portPick : Port → Pick
  | .host     => .host
  | .producer => .producer
  | .consumer => .consumer

/-- Whether a port's step is enabled (R211): a pending command's step, a STOP or CLOSE completion (R105, R107), or a
PRODUCE whose hold is released. A PRODUCE's step is enabled only where it is ready, held or not (R141). -/
def State.enabled (s : State) : Port → Bool
  | .host =>
    match s.st.hostWait with
    | .none      => !s.io.hostCmds.isEmpty
    | .stopJoin  => !s.st.loopActive
    | .closeJoin => !s.st.loopActive
  | .producer => !s.io.prodCmds.isEmpty
  | .consumer =>
    match s.st.consWait with
    | .produce _ => s.st.ready s.params
    | .none =>
      match s.io.consCmds with
      | []     => false
      | c :: _ =>
        match decodeOn .consumer c.word with
        | .instr _  => s.st.ready s.params
        | .reject _ => true

/-- What the agents and the environment may do between two steps: issue more commands (R211: "the environment's and is
not forced"), and choose the steps and the answers to come (log 1, 3). -/
structure EnvironmentMove (s t : State) : Prop where
  sameBlock : t.st = s.st
  sameParams : t.params = s.params
  issued : ∀ p, ∃ more, t.io.cmds p = s.io.cmds p ++ more
  sameResponses : ∀ p, t.io.out p = s.io.out p
  sameDraws : t.io.draws = s.io.draws

/-- A run: the states at which the steps are taken, each reached from the one before by its step and then what the
environment does (R57, R211). -/
def IsRun (run : Nat → State) : Prop :=
  ∀ n, ∃ t, step (run n) = .next t ∧ EnvironmentMove t (run (n + 1))

/-- R211, weak fairness: "a block step that stays enabled is eventually taken". -/
def WeaklyFair (run : Nat → State) : Prop :=
  ∀ (p : Port) (n : Nat), (∀ m, n ≤ m → (run m).enabled p = true) → ∃ m, n ≤ m ∧ (run m).nextPick = portPick p

/-- R212(a): a STOP or CLOSE waits for a loop that has not exited. -/
def State.joinWaits (s : State) : Prop := s.st.hostWait ≠ .none ∧ s.st.loopActive = true

/-- R212(b): a PRODUCE waits for prefill. -/
def State.prefillWaits (s : State) : Prop := s.st.consWait ≠ .none ∧ s.st.ready s.params = false

/-- The significand field of a normal binary32 pattern with its leading 1, signed: its value times 2^23 at exponent
0 (R12, R164). -/
def normalSignificand (w : Word) : Int :=
  (if w.getLsbD 31 = true then -1 else 1) * (2 ^ 23 + (w.extractLsb' 0 23).toNat : Int)

/-- The rational number that a binary32 pattern stands for, where the pattern is +0.0 or normal (R12, R163). -/
def binary32Value (w : Word) : ℚ :=
  if w = 0 then 0
  else (normalSignificand w : ℚ) * 2 ^ (w.extractLsb' 23 8).toNat / 2 ^ 150

end Sys2Proof.Machine
end

