-- ==== Sys2Proof/Certificates/Slice0/Obligations.lean ====
section
/-! DEFINITION. The statements for the provers. Each docstring names the rule of spec/ that the statement formalises. -/

open Sys2Proof Sys2Proof.Machine

/-! ### Encoding -/

/-- R71, R74, R80: the words of a command, and only those, decode to it, and on its own port only (R73). -/
def Obligations.EncodingRoundTrip : Prop :=
  (∀ i : Instr, decode (encode i) = .instr i) ∧
  (∀ (w : Word) (i : Instr), decode w = .instr i → encode i = w) ∧
  (∀ (p : Port) (w : Word) (i : Instr), decodeOn p w = .instr i ↔ (i.port = p ∧ w = encode i))

/-- R82 with R73, R75 and R76: which words are rejected, and by which check; the first failing check decides. -/
def Obligations.FirstFailingCheckRejects : Prop :=
  ∀ (p : Port) (w : Word),
    let op := (opField w).toNat
    let reserved := op = 0 ∨ 0xB ≤ op
    let accepted := (p = .host ∧ 1 ≤ op ∧ op ≤ 7) ∨ (p = .producer ∧ (op = 8 ∨ op = 9)) ∨ (p = .consumer ∧ op = 0xA)
    (decodeOn p w = .reject .reservedOpcode ↔ reserved) ∧
    (decodeOn p w = .reject .wrongPort ↔ ¬ reserved ∧ ¬ accepted) ∧
    (decodeOn p w = .reject .illegalOperand ↔ accepted ∧ 3 ≤ op ∧ op ≤ 6 ∧ immField w ≠ 0) ∧
    ((∃ i, decodeOn p w = .instr i) ↔ accepted ∧ ¬ (3 ≤ op ∧ op ≤ 6 ∧ immField w ≠ 0))

/-- R74: a word is a command exactly when a row of the opcode map selects it, it is that row's command with the word's
operand, and no second row selects it. -/
def Obligations.OneRowSelectsEachCommand : Prop :=
  (∀ w r, r ∈ opcodeRows → r.selects w = true → decode w = .instr (r.opcode.withOperand (immField w))) ∧
  (∀ w i, decode w = .instr i → ∃ r, r ∈ opcodeRows ∧ r.selects w = true ∧ r.opcode = i.opcode) ∧
  (∀ w r r', r ∈ opcodeRows → r' ∈ opcodeRows → r.selects w = true → r'.selects w = true → r = r')

/-- Words written out from R71 and R74 decode to the commands they stand for. -/
def Obligations.WrittenOutWordsDecode : Prop :=
  decodeOn .host 0x10000004 = .instr (.cfgBuffers 4) ∧
  decodeOn .host 0x20000200 = .instr (.cfgBuflen 512) ∧
  decodeOn .host 0x30000000 = .instr .openDevice ∧
  decodeOn .host 0x7000000A = .instr (.readReg 0xA) ∧
  decodeOn .producer 0x80000200 = .instr (.deliver 512) ∧
  decodeOn .producer 0x9000000F = .instr (.drvExit 15) ∧
  decodeOn .consumer 0xA000012C = .instr (.produce 300) ∧
  decodeOn .host 0x80000200 = .reject .wrongPort ∧
  decodeOn .host 0x4FFFFFFF = .reject .illegalOperand ∧
  decodeOn .consumer 0xC0000000 = .reject .reservedOpcode

/-- R80: a line with an operand of 28 bits, on the port of its mnemonic, assembles to the opcode and the operand; an operand
that does not fit yields no word, and neither does a mnemonic that the line's port does not accept (log 19). -/
def Obligations.AssemblerPacksOpAndOperand : Prop :=
  ∀ (port : Port) (op : Opcode) (n : Nat),
    (op.port = port → n < 2 ^ 28 → ∃ w, assemble ⟨port, op, some n⟩ = some w ∧ opField w = op.code ∧ (immField w).toNat = n) ∧
    (2 ^ 28 ≤ n → assemble ⟨port, op, some n⟩ = none) ∧
    (op.port ≠ port → ∀ o, assemble ⟨port, op, o⟩ = none)

/-- R81: the commands that the pseudo-commands stand for, as words. -/
def Obligations.PseudoCommandsExpand : Prop :=
  (∀ n b : Nat, n < 2 ^ 28 → b < 2 ^ 28 →
    (Pseudo.configure n b).expand.map assemble =
      [some (encode (.cfgBuffers (BitVec.ofNat 28 n))), some (encode (.cfgBuflen (BitVec.ofNat 28 b)))]) ∧
  Pseudo.restart.expand.map assemble = [some 0x50000000, some 0x40000000] ∧
  Pseudo.destroy.expand.map assemble = [some 0x60000000] ∧
  Pseudo.status.expand.map assemble = [some 0x70000000] ∧
  (∀ (q : Pseudo) (l : AsmLine), l ∈ q.expand → l.port = .host)

/-! ### Reset and the invariant -/

/-- R200: hardware reset puts every field of `st` in its reset state, whatever the state was, and nothing else clears the
fault record. -/
def Obligations.HardwareResetSetsEveryField : Prop :=
  (∀ s : State, s.nextPick = .reset →
    ∃ t, step s = .next t ∧ ResetTable s.params t.st ∧ t.st.stateWord = 0x80 ∧ t.params = s.params) ∧
  (∀ s t : State, step s = .next t → s.st.fault = true → t.st.fault = false → s.nextPick = .reset) ∧
  ResetTable State.reset.params State.reset.st ∧
  State.reset.st.cfgBuffers = 15 ∧ State.reset.st.cfgBuflen = 819200 ∧ State.reset.st.stateWord = 0x80

/-- R43: the invariant holds after reset. -/
def Obligations.ResetMeetsInvariant : Prop := State.reset.Inv

/-- R43: every step keeps the invariant. -/
def Obligations.StepKeepsInvariant : Prop :=
  ∀ s t : State, s.Inv → step s = .next t → t.Inv

/-- R180: the block "keeps running": from a state of the invariant no step stops the model, and the next state meets
the invariant too. -/
def Obligations.InvariantStatesKeepRunning : Prop :=
  ∀ s : State, s.Inv → ∃ t, step s = .next t ∧ t.Inv

/-- The written bytes of slot storage keep their canonical form at every step (log 4). -/
def Obligations.StepKeepsStorageCanonical : Prop :=
  ∀ s t : State, Memory.wf s.st.slots.cells → step s = .next t → Memory.wf t.st.slots.cells

/-! ### Steps -/

/-- R38, R82: a port's step runs the command that its current word decodes to, on the state in which the step has been
counted (log 1); a word that is no command faults. R182: the code of every cause, and which failing check gives which. -/
def Obligations.StepRunsDecodedCommand : Prop :=
  (∀ (s : State) c cs, s.nextPick = .host → s.st.hostWait = .none → s.io.hostCmds = c :: cs →
    (∀ i, decodeOn .host c.word = .instr i → step s = exec i s.tick) ∧
    (∀ r, decodeOn .host c.word = .reject r →
      ∃ t, step s = .next t ∧ Faulted s.tick t .host (rejectCause r) c.word)) ∧
  (∀ (s : State) c cs, s.nextPick = .producer → s.io.prodCmds = c :: cs →
    (∀ i, decodeOn .producer c.word = .instr i → step s = exec i s.tick) ∧
    (∀ r, decodeOn .producer c.word = .reject r →
      ∃ t, step s = .next t ∧ Faulted s.tick t .producer (rejectCause r) c.word)) ∧
  (∀ (s : State) c cs, s.nextPick = .consumer → s.st.consWait = .none → s.io.consCmds = c :: cs →
    (∀ i, decodeOn .consumer c.word = .instr i → step s = exec i s.tick) ∧
    (∀ r, decodeOn .consumer c.word = .reject r →
      ∃ t, step s = .next t ∧ Faulted s.tick t .consumer (rejectCause r) c.word)) ∧
  (∀ s : State, s.tick.st = s.st ∧ s.tick.params = s.params ∧
    s.tick.io = { s.io with sched := s.io.sched.tail, draws := s.io.draws + 1 }) ∧
  ((rejectCause .reservedOpcode).code = 1 ∧ (rejectCause .wrongPort).code = 1 ∧
    (rejectCause .illegalOperand).code = 2) ∧
  (Cause.code .illegalOpcode = 1 ∧ Cause.code .illegalOperand = 2 ∧ Cause.code .notOpen = 3 ∧
    Cause.code .alreadyOpen = 4 ∧ Cause.code .busy = 5 ∧ Cause.code .drvProtocol = 6 ∧ Cause.code .badLength = 7 ∧
    Cause.code .badReg = 8)

/-- R61: a held PRODUCE is tried again at every step of its port, on the state as it then is. -/
def Obligations.HeldProduceIsTriedAgain : Prop :=
  ∀ (s : State) want, s.nextPick = .consumer → s.st.consWait = .produce want → step s = exec (.produce want) s.tick

/-! ### Host port -/

/-- R100: CFG_BUFFERS stores the slot count, 0 forced to N_DEFAULT, and does nothing else. -/
def Obligations.CfgBuffersStoresCount : Prop :=
  ∀ (n : Operand) (s : State), ∃ t, exec (.cfgBuffers n) s = .next t ∧
    t.st.cfgBuffers = (if n = 0 then s.params.nDefault else n) ∧
    { t.st with cfgBuffers := s.st.cfgBuffers } = s.st ∧
    SameStorage s t ∧ Answered s t .host ⟨false, 0, []⟩ ∧ encode (.cfgBuffers n) = 0x1#4 ++ n

/-- R101: CFG_BUFLEN stores the slot length; 0 and a non-multiple of the granule are forced to BUFLEN_DEFAULT; it does
nothing else. -/
def Obligations.CfgBuflenStoresLength : Prop :=
  ∀ (b : Operand) (s : State), ∃ t, exec (.cfgBuflen b) s = .next t ∧
    t.st.cfgBuflen = (if b.toNat = 0 ∨ b.toNat % s.params.buflenGranule ≠ 0 then s.params.buflenDefault else b) ∧
    { t.st with cfgBuflen := s.st.cfgBuflen } = s.st ∧
    SameStorage s t ∧ Answered s t .host ⟨false, 0, []⟩ ∧ encode (.cfgBuflen b) = 0x2#4 ++ b

/-- R102: OPEN of a closed block whose device opens and whose ring fits. -/
def Obligations.OpenAllocatesTheRing : Prop :=
  ∀ s : State, s.st.life = .closed → s.openOk = true →
    s.st.cfgBuffers.toNat * s.st.cfgBuflen.toNat ≤ s.params.ringBytesMax →
    ∃ t, exec .openDevice s = .next t ∧
      t.st.life = .opened ∧ t.st.nSlots = s.st.cfgBuffers ∧ t.st.buflen = s.st.cfgBuflen ∧
      (∀ a, t.st.storageByte a = Config.freeSlotByte s.io.draws a) ∧
      t.st.head = 0 ∧ t.st.used = 0 ∧ t.st.offset = 0 ∧ t.st.primed = false ∧ t.st.skipRem = 0 ∧
      t.st.running = false ∧ t.st.loopActive = false ∧ t.st.cancelReq = false ∧
      t.st.ovfCount = 0 ∧ t.st.drvStatus = 0 ∧
      t.st.cfgBuffers = s.st.cfgBuffers ∧ t.st.cfgBuflen = s.st.cfgBuflen ∧
      t.st.fault = s.st.fault ∧ t.st.faultCause = s.st.faultCause ∧ t.st.faultInfo = s.st.faultInfo ∧
      t.st.hostWait = s.st.hostWait ∧ t.st.consWait = s.st.consWait ∧
      Answered s.useOpenAnswer t .host ⟨false, 0, []⟩

/-- R102, R186(a), R51: an OPEN whose device does not open, or whose ring does not fit, answers 1 and leaves `st` as it is;
an OPEN while open faults ALREADY_OPEN. -/
def Obligations.OpenFailsWithoutPartialState : Prop :=
  (∀ s : State, s.st.life = .closed →
    (s.openOk = false ∨ s.params.ringBytesMax < s.st.cfgBuffers.toNat * s.st.cfgBuflen.toNat) →
    ∃ t, exec .openDevice s = .next t ∧ t.st = s.st ∧ SameStorage s t ∧
      Answered s.useOpenAnswer t .host ⟨false, 1, []⟩) ∧
  (∀ s : State, s.st.life = .opened →
    ∃ t, exec .openDevice s = .next t ∧ Faulted s t .host .alreadyOpen 0x30000000)

/-- R103: START of an open block with no read loop begins an empty stream. -/
def Obligations.StartBeginsAStream : Prop :=
  ∀ s : State, s.st.life = .opened → s.st.loopActive = false →
    ∃ t, exec .start s = .next t ∧
      t.st.head = 0 ∧ t.st.used = 0 ∧ t.st.offset = 0 ∧ t.st.primed = false ∧
      t.st.skipRem = s.params.skipK ∧ t.st.drvStatus = 0 ∧ t.st.cancelReq = false ∧
      t.st.running = true ∧ t.st.loopActive = true ∧
      { t.st with
        head := s.st.head, used := s.st.used, offset := s.st.offset, primed := s.st.primed,
        skipRem := s.st.skipRem, drvStatus := s.st.drvStatus, cancelReq := s.st.cancelReq,
        running := s.st.running, loopActive := s.st.loopActive } = s.st ∧
      SameStorage s t ∧ Answered s t .host ⟨false, 0, []⟩

/-- R103, R183: START faults NOT_OPEN while closed, and only then BUSY while the read loop is active. -/
def Obligations.StartFaultsInOrder : Prop :=
  (∀ s : State, s.st.life = .closed →
    ∃ t, exec .start s = .next t ∧ Faulted s t .host .notOpen 0x40000000) ∧
  (∀ s : State, s.st.life = .opened → s.st.loopActive = true →
    ∃ t, exec .start s = .next t ∧ Faulted s t .host .busy 0x40000000)

/-- R104: STOP answers at once where there is nothing to stop, else it cancels the stream and holds the host port. -/
def Obligations.StopCancelsOrAnswers : Prop :=
  encode .stop = 0x50000000 ∧
  (∀ s : State, s.st.life = .closed ∨ s.st.loopActive = false →
    ∃ t, exec .stop s = .next t ∧ t.st = s.st ∧ SameStorage s t ∧ Answered s t .host ⟨false, 0, []⟩) ∧
  (∀ s : State, s.st.life = .opened → s.st.loopActive = true →
    ∃ t, exec .stop s = .next t ∧
      t.st.running = false ∧ t.st.cancelReq = true ∧ t.st.hostWait = .stopJoin ∧
      { t.st with running := s.st.running, cancelReq := s.st.cancelReq, hostWait := s.st.hostWait } = s.st ∧
      SameStorage s t ∧ Unanswered s t)

/-- R106: CLOSE answers while closed, cancels and holds while the read loop is active, else frees the ring. -/
def Obligations.CloseCancelsOrFrees : Prop :=
  encode .close = 0x60000000 ∧
  (∀ s : State, s.st.life = .closed →
    ∃ t, exec .close s = .next t ∧ t.st = s.st ∧ SameStorage s t ∧ Answered s t .host ⟨false, 0, []⟩) ∧
  (∀ s : State, s.st.life = .opened → s.st.loopActive = true →
    ∃ t, exec .close s = .next t ∧
      t.st.running = false ∧ t.st.cancelReq = true ∧ t.st.hostWait = .closeJoin ∧
      { t.st with running := s.st.running, cancelReq := s.st.cancelReq, hostWait := s.st.hostWait } = s.st ∧
      SameStorage s t ∧ Unanswered s t) ∧
  (∀ s : State, s.st.life = .opened → s.st.loopActive = false →
    ∃ t, exec .close s = .next t ∧
      t.st.cancelReq = false ∧ t.st.running = false ∧ t.st.life = .closed ∧ t.st.slots = Slots.empty ∧
      t.st.nSlots = 0 ∧ t.st.buflen = 0 ∧ t.st.head = 0 ∧ t.st.used = 0 ∧ t.st.offset = 0 ∧
      t.st.primed = false ∧ t.st.skipRem = 0 ∧
      { t.st with
        cancelReq := s.st.cancelReq, running := s.st.running, life := s.st.life, slots := s.st.slots,
        nSlots := s.st.nSlots, buflen := s.st.buflen, head := s.st.head, used := s.st.used,
        offset := s.st.offset, primed := s.st.primed, skipRem := s.st.skipRem } = s.st ∧
      Answered s t .host ⟨false, 0, []⟩)

/-- R105, R107: a waiting STOP or CLOSE completes at the host port's step once the read loop has exited. -/
def Obligations.JoinCompletesAfterLoopExit : Prop :=
  (∀ s : State, s.nextPick = .host → s.st.hostWait = .stopJoin → s.st.loopActive = false →
    ∃ t, step s = .next t ∧ t.st.cancelReq = false ∧ t.st.hostWait = .none ∧
      { t.st with cancelReq := s.st.cancelReq, hostWait := s.st.hostWait } = s.st ∧
      Answered s.tick t .host ⟨false, 0, []⟩) ∧
  (∀ s : State, s.nextPick = .host → s.st.hostWait = .closeJoin → s.st.loopActive = false →
    ∃ t, step s = .next t ∧
      t.st.cancelReq = false ∧ t.st.running = false ∧ t.st.life = .closed ∧ t.st.slots = Slots.empty ∧
      t.st.nSlots = 0 ∧ t.st.buflen = 0 ∧ t.st.head = 0 ∧ t.st.used = 0 ∧ t.st.offset = 0 ∧
      t.st.primed = false ∧ t.st.skipRem = 0 ∧ t.st.hostWait = .none ∧
      { t.st with
        cancelReq := s.st.cancelReq, running := s.st.running, life := s.st.life, slots := s.st.slots,
        nSlots := s.st.nSlots, buflen := s.st.buflen, head := s.st.head, used := s.st.used,
        offset := s.st.offset, primed := s.st.primed, skipRem := s.st.skipRem,
        hostWait := s.st.hostWait } = s.st ∧
      Answered s.tick t .host ⟨false, 0, []⟩)

/-- R40: the bits of the STATE register, and its value at reset. -/
def Obligations.StateRegisterBits : Prop :=
  State.reset.st.stateWord = 0x80 ∧
  ∀ st : Block,
    (st.stateWord.getLsbD 0 = true ↔ st.life = .opened) ∧
    st.stateWord.getLsbD 1 = st.running ∧
    st.stateWord.getLsbD 2 = st.loopActive ∧
    st.stateWord.getLsbD 3 = st.cancelReq ∧
    st.stateWord.getLsbD 4 = st.primed ∧
    st.stateWord.getLsbD 5 = st.fault ∧
    (st.stateWord.getLsbD 6 = true ↔ st.life = .opened ∧ st.used = st.nSlots.toNat) ∧
    (st.stateWord.getLsbD 7 = true ↔ st.used = 0) ∧
    ∀ i, 8 ≤ i → st.stateWord.getLsbD i = false

/-- R201: an OPEN that succeeds and then a START give an open, running, empty stream (FAULT bit aside). -/
def Obligations.BootSequenceStartsAStream : Prop :=
  ∀ s : State, s.st.life = .closed → s.openOk = true → s.st.cfgBuffers ≠ 0 →
    s.st.cfgBuffers.toNat * s.st.cfgBuflen.toNat ≤ s.params.ringBytesMax →
    ∃ t u, exec .openDevice s = .next t ∧ exec .start t = .next u ∧
      t.st.stateWord &&& 0xFFFFFFDF = 0x81 ∧ u.st.stateWord &&& 0xFFFFFFDF = 0x87 ∧
      u.st.skipRem = s.params.skipK ∧
      u.io.hostOut = ⟨false, 0, []⟩ :: ⟨false, 0, []⟩ :: s.io.hostOut

/-- R39, R108: READ_REG answers with the register its whole operand selects, changes no state, and faults BAD_REG for a
selector above 0xD. -/
def Obligations.ReadRegAnswersTheRegister : Prop :=
  (∀ (s : State) (sel : Operand) (v : Word),
    (sel, v) ∈ ([
      (0x0, s.st.stateWord),
      (0x1, s.st.cfgBuffers.setWidth 32),
      (0x2, s.st.cfgBuflen.setWidth 32),
      (0x3, s.st.nSlots.setWidth 32),
      (0x4, s.st.buflen.setWidth 32),
      (0x5, BitVec.ofNat 32 s.st.head),
      (0x6, BitVec.ofNat 32 s.st.used),
      (0x7, if s.st.life = .closed then 0 else BitVec.ofNat 32 ((s.st.head + s.st.used) % s.st.nSlots.toNat)),
      (0x8, BitVec.ofNat 32 s.st.offset),
      (0x9, BitVec.ofNat 32 s.st.skipRem),
      (0xA, s.st.ovfCount),
      (0xB, s.st.drvStatus.setWidth 32),
      (0xC, s.st.faultCause.setWidth 32),
      (0xD, s.st.faultInfo)] : List (Operand × Word)) →
    ∃ t, exec (.readReg sel) s = .next t ∧ t.st = s.st ∧ SameStorage s t ∧ Answered s t .host ⟨false, v, []⟩) ∧
  (∀ (s : State) (sel : Operand), 0xD < sel.toNat →
    ∃ t, exec (.readReg sel) s = .next t ∧ Faulted s t .host .badReg (0x7#4 ++ sel))

/-! ### Producer port -/

/-- R120, R183: a DELIVER with no read loop faults DRV_PROTOCOL whatever its length, and with a read loop one of the wrong
length faults BAD_LENGTH; in both cases nothing is stored. -/
def Obligations.DeliverFaultsInOrder : Prop :=
  (∀ (s : State) (len : Operand), s.st.loopActive = false →
    ∃ t, exec (.deliver len) s = .next t ∧ Faulted s t .producer .drvProtocol (0x8#4 ++ len) ∧ SameStorage s t) ∧
  (∀ (s : State) (len : Operand), s.st.loopActive = true → len ≠ s.st.buflen →
    ∃ t, exec (.deliver len) s = .next t ∧ Faulted s t .producer .badLength (0x8#4 ++ len) ∧ SameStorage s t)

/-- R121: a DELIVER after the cancel is discarded and changes nothing; a running one in the skip window is discarded and
takes one from `skip_rem`. -/
def Obligations.DeliverDiscards : Prop :=
  (∀ s : State, s.st.loopActive = true → s.st.running = false →
    ∃ t, exec (.deliver s.st.buflen) s = .next t ∧ t.st = s.st ∧ SameStorage s t ∧
      Answered s t .producer ⟨false, 0, []⟩) ∧
  (∀ s : State, s.st.loopActive = true → s.st.running = true → 0 < s.st.skipRem →
    ∃ t, exec (.deliver s.st.buflen) s = .next t ∧ t.st.skipRem = s.st.skipRem - 1 ∧
      { t.st with skipRem := s.st.skipRem } = s.st ∧ SameStorage s t ∧ Answered s t .producer ⟨false, 0, []⟩)

/-- R122: a DELIVER into a ring that is not full writes its payload into the slot at `tail`, counts one slot more, and
changes nothing else, in storage or out of it. -/
def Obligations.DeliverPushesAtTail : Prop :=
  ∀ (s : State) c cs, s.st.loopActive = true → s.st.running = true → s.st.skipRem = 0 →
    s.st.used < s.st.nSlots.toNat → s.io.prodCmds = c :: cs → c.payload.length = s.st.buflen.toNat →
    ∃ t, exec (.deliver s.st.buflen) s = .next t ∧
      t.st.used = s.st.used + 1 ∧
      (∀ j b, c.payload[j]? = some b →
        t.st.storageByte (s.st.slotAddr ((s.st.head + s.st.used) % s.st.nSlots.toNat) j) = b) ∧
      (∀ a, a < s.st.slotAddr s.st.tail 0 ∨ s.st.slotAddr s.st.tail 0 + s.st.buflen.toNat ≤ a →
        t.st.storageByte a = s.st.storageByte a) ∧
      { t.st with used := s.st.used, slots := s.st.slots } = s.st ∧
      Answered s t .producer ⟨false, 0, []⟩

/-- R123: a DELIVER into a full ring overwrites the oldest block, makes the next-oldest the oldest, resets the cursor,
leaves `used` at N and counts the overflow mod 2^32. -/
def Obligations.DeliverOverflowDropsOldest : Prop :=
  ∀ (s : State) c cs, s.st.loopActive = true → s.st.running = true → s.st.skipRem = 0 →
    s.st.used = s.st.nSlots.toNat → s.st.head < s.st.nSlots.toNat → s.io.prodCmds = c :: cs →
    c.payload.length = s.st.buflen.toNat →
    ∃ t, exec (.deliver s.st.buflen) s = .next t ∧
      t.st.head = (s.st.head + 1) % s.st.nSlots.toNat ∧ t.st.used = s.st.used ∧ t.st.offset = 0 ∧
      t.st.ovfCount.toNat = (s.st.ovfCount.toNat + 1) % 2 ^ 32 ∧
      (∀ j b, c.payload[j]? = some b → t.st.storageByte (s.st.slotAddr s.st.head j) = b) ∧
      (∀ a, a < s.st.slotAddr s.st.head 0 ∨ s.st.slotAddr s.st.head 0 + s.st.buflen.toNat ≤ a →
        t.st.storageByte a = s.st.storageByte a) ∧
      { t.st with
        head := s.st.head, offset := s.st.offset, ovfCount := s.st.ovfCount, slots := s.st.slots } = s.st ∧
      Answered s t .producer ⟨false, 0, []⟩

/-- R124: DRV_EXIT with a read loop ends the loop, stops the stream and records the status, and changes nothing else;
with none it faults DRV_PROTOCOL. -/
def Obligations.DrvExitEndsTheLoop : Prop :=
  (∀ (s : State) (status : Operand), s.st.loopActive = true →
    ∃ t, exec (.drvExit status) s = .next t ∧
      t.st.loopActive = false ∧ t.st.running = false ∧ t.st.drvStatus = status ∧
      { t.st with loopActive := s.st.loopActive, running := s.st.running, drvStatus := s.st.drvStatus } = s.st ∧
      SameStorage s t ∧ Answered s t .producer ⟨false, 0, []⟩) ∧
  (∀ (s : State) (status : Operand), s.st.loopActive = false →
    ∃ t, exec (.drvExit status) s = .next t ∧ Faulted s t .producer .drvProtocol (0x9#4 ++ status))

/-- R125: every step of the producer port answers its current command and sets no hold. -/
def Obligations.ProducerPortNeverHolds : Prop :=
  ∀ (s : State) c cs, s.Inv → s.nextPick = .producer → s.io.prodCmds = c :: cs →
    ∃ t r, step s = .next t ∧ t.io.prodOut = r :: s.io.prodOut ∧ t.io.prodCmds = cs ∧
      t.st.hostWait = s.st.hostWait ∧ t.st.consWait = s.st.consWait

/-! ### Consumer port -/

/-- R141, R148: while the stream runs below the threshold, unprimed or in EVERY_CALL mode, a PRODUCE holds: it records its
want and there is no response. -/
def Obligations.ProduceHoldsBelowPrefill : Prop :=
  ∀ (s : State) (want : Operand), s.st.running = true → s.st.used < s.params.minPrefill →
    (s.st.primed = false ∨ s.params.prefillMode = .everyCall) →
    ∃ t, exec (.produce want) s = .next t ∧ t.st.consWait = .produce want ∧
      { t.st with consWait := s.st.consWait } = s.st ∧ SameStorage s t ∧ Unanswered s t

/-- R140, R141: a PRODUCE that finds the block closed faults NOT_OPEN and no longer holds. -/
def Obligations.ProduceFaultsWhileClosed : Prop :=
  ∀ (s : State) (want : Operand), s.st.life = .closed → s.st.running = false →
    ∃ t, exec (.produce want) s = .next t ∧
      Faulted (s.withConsWait .none) t .consumer .notOpen (0xA#4 ++ want)

/-- R142(a): an open, stopped, empty block answers end-of-stream with no samples and no state change but the end of a
hold. -/
def Obligations.ProduceAnswersEndOfStream : Prop :=
  ∀ (s : State) (want : Operand), s.st.life = .opened → s.st.used = 0 → s.st.running = false →
    ∃ t, exec (.produce want) s = .next t ∧ t.st = { s.st with consWait := .none } ∧ SameStorage s t ∧
      Answered s t .consumer ⟨false, 0x80000000, []⟩

/-- R143, R145, R146, R60: a PRODUCE that is ready on an open block with data or a running stream emits the oldest
unconsumed samples in order, as many as there are up to `want`, leaves the others, primes where the threshold is met,
and changes nothing else. Sample `k` is the conversion of the four bytes of storage where R50 and R52 place it: it is
`offset + k` samples past the start of the slot at `head`, counted round the ring. -/
def Obligations.ProduceDrainsOldestSamples : Prop :=
  ∀ (s : State) (want : Operand), s.st.life = .opened →
    (s.st.running = false ∨ s.params.minPrefill ≤ s.st.used ∨
      (s.params.prefillMode = .once ∧ s.st.primed = true)) →
    ¬ (s.st.used = 0 ∧ s.st.running = false) →
    s.st.head < s.st.nSlots.toNat → s.st.offset < s.st.slotSamples →
    ∃ t, exec (.produce want) s = .next t ∧
      Answered s t .consumer
        ⟨false, BitVec.ofNat 32 (min want.toNat s.st.available), (s.st.pending s.params).take want.toNat⟩ ∧
      ((s.st.pending s.params).take want.toNat).length = min want.toNat s.st.available ∧
      (∀ k, k < min want.toNat s.st.available →
        let slot := (s.st.head + (s.st.offset + k) / s.st.slotSamples) % s.st.nSlots.toNat
        let base := slot * s.st.buflen.toNat + 4 * ((s.st.offset + k) % s.st.slotSamples)
        ((s.st.pending s.params).take want.toNat)[k]? =
          some (convert s.params (s.st.storageByte base) (s.st.storageByte (base + 1))
            (s.st.storageByte (base + 2)) (s.st.storageByte (base + 3)))) ∧
      t.st.pending s.params = (s.st.pending s.params).drop want.toNat ∧
      t.st.consWait = .none ∧
      (t.st.primed = true ↔ s.st.primed = true ∨ s.params.minPrefill ≤ s.st.used) ∧
      { t.st with
        head := s.st.head, used := s.st.used, offset := s.st.offset, primed := s.st.primed,
        consWait := s.st.consWait } = s.st ∧
      SameStorage s t

/-- R143, R145: where the cursor stands after a drain of `count` samples: whole slots are freed by ADVANCE, and the rest is
the offset in the new oldest slot. -/
def Obligations.DrainMovesTheCursor : Prop :=
  ∀ (st : Block) (p : Params) (want : Operand), 0 < st.used → st.head < st.nSlots.toNat → st.offset < st.slotSamples →
    let count := min want.toNat (st.used * st.slotSamples - st.offset)
    let freed := (st.offset + count) / st.slotSamples
    (st.drain p want).2.length = count ∧
    (st.drain p want).1 =
      { st with
        head := (st.head + freed) % st.nSlots.toNat
        used := st.used - freed
        offset := (st.offset + count) % st.slotSamples }

/-- R147: with PREFILL_TIMEOUT set, a held PRODUCE that is not ready may end at a timeout step, which answers (0, 0) and
emits nothing. The rest is the model's choice. That the step is a pick of the schedule, and that it clears `cons_wait`, is
log 9, which reads R147's "changes no state" as: no field but `cons_wait`. With PREFILL_TIMEOUT off R147 says that no timeout
step exists; there a timeout pick is the idle step of log 10, which changes nothing but the schedule and the draw counter
(`State.tick`, log 1). -/
def Obligations.PrefillTimeoutStep : Prop :=
  (∀ (s : State) (want : Operand), s.nextPick = .timeout → s.st.consWait = .produce want →
    s.params.prefillTimeout = true → s.st.ready s.params = false →
    ∃ t, step s = .next t ∧ t.st = { s.st with consWait := .none } ∧
      Answered s.tick t .consumer ⟨false, 0, []⟩) ∧
  (∀ s : State, s.nextPick = .timeout → s.params.prefillTimeout = false → step s = .next s.tick)

/-- R203: in a ring smaller than the threshold an unprimed running stream never primes, and a PRODUCE holds. -/
def Obligations.SmallRingHoldsTheConsumer : Prop :=
  ∀ s : State, s.Inv → s.st.life = .opened → s.st.nSlots.toNat < s.params.minPrefill → s.st.primed = false →
    (∀ t, step s = .next t → t.st.primed = false) ∧
    (s.st.running = true → ∀ want, ∃ t, exec (.produce want) s = .next t ∧
      t.st.consWait = .produce want ∧ Unanswered s t)

/-- R212: the stuck states. A host port that waits for a loop that has not exited, and a consumer port that waits below
the threshold, take no step: nothing but the schedule moves on (log 10).
R211: which steps weak fairness forces. The pick of a port whose step is not enabled changes nothing of `st` but that a
PRODUCE that is not ready records its hold (log 10, 17). The pick of a port whose step is enabled answers, or begins the
wait of a STOP or CLOSE. An enabled step of the host or the producer port stays enabled until it is taken, so in a weakly
fair run it is taken. -/
def Obligations.WaitingPortsTakeNoStep : Prop :=
  (∀ s : State, s.nextPick = .host → s.joinWaits → step s = .next s.tick) ∧
  (∀ s : State, s.nextPick = .consumer → s.prefillWaits → step s = .next s.tick) ∧
  (∀ (s : State) (p : Port), s.nextPick = portPick p → s.enabled p = false →
    ∃ t, step s = .next t ∧ { t.st with consWait := s.st.consWait } = s.st ∧ Unanswered s.tick t) ∧
  (∀ (s : State) (p : Port), s.Inv → s.nextPick = portPick p → s.enabled p = true →
    ∃ t, step s = .next t ∧
      ((∃ r, t.io.out p = r :: s.io.out p) ∨ (p = .host ∧ s.st.hostWait = .none ∧ t.st.hostWait ≠ .none))) ∧
  (∀ (s t : State) (p : Port), p ≠ .consumer → s.enabled p = true → step s = .next t →
    s.nextPick ≠ portPick p → s.nextPick ≠ .reset → t.enabled p = true) ∧
  (∀ run : Nat → State, IsRun run → WeaklyFair run → (∀ n, (run n).nextPick ≠ .reset) →
    ∀ (p : Port) (n : Nat), p ≠ .consumer → (run n).enabled p = true →
      ∃ m, n ≤ m ∧ (run m).enabled p = true ∧ (run m).nextPick = portPick p)

/-! ### Converter -/

/-- R161: a 16-bit code is its two's complement value. -/
def Obligations.CodesAreTwosComplement : Prop :=
  ∀ h : Half, sint16 h = (if h.getLsbD 15 = true then (h.toNat : Int) - 65536 else (h.toNat : Int)) ∧
    -32768 ≤ sint16 h ∧ sint16 h ≤ 32767

/-- R162, R163: the converter's result is exactly the code times 2^(-SCALE_SHIFT); it is +0.0 for code 0 and a normal
number for every other code: never NaN, infinity, a subnormal or -0.0. -/
def Obligations.ConversionIsExact : Prop :=
  ∀ (h : Half) (k : Nat), k ≤ 126 →
    binary32Value (scaleCode k (sint16 h)) = (sint16 h : ℚ) / 2 ^ k ∧
    (sint16 h = 0 → scaleCode k (sint16 h) = 0) ∧
    (sint16 h ≠ 0 →
      1 ≤ ((scaleCode k (sint16 h)).extractLsb' 23 8).toNat ∧
      ((scaleCode k (sint16 h)).extractLsb' 23 8).toNat ≤ 254)

/-- R164: the closed form of the output bits for SCALE_SHIFT = 15. -/
def Obligations.ConversionClosedForm : Prop :=
  scaleCode 15 0 = 0x00000000 ∧
  ∀ (h : Half) (e : Nat), 2 ^ e ≤ (sint16 h).natAbs → (sint16 h).natAbs < 2 ^ (e + 1) →
    ((scaleCode 15 (sint16 h)).getLsbD 31 = true ↔ sint16 h < 0) ∧
    ((scaleCode 15 (sint16 h)).extractLsb' 23 8).toNat = e + 127 - 15 ∧
    ((scaleCode 15 (sint16 h)).extractLsb' 0 23).toNat * 2 ^ e = ((sint16 h).natAbs - 2 ^ e) * 2 ^ 23

/-- R52, R160: which bytes of a raw sample are I and which are Q, in both byte orders. -/
def Obligations.ConvertReadsItsBytes : Prop :=
  ∀ (p : Params) (b0 b1 b2 b3 : Byte),
    (p.rawEndian = .little → convert p b0 b1 b2 b3 =
      ⟨scaleCode p.scaleShift (sint16 (b1 ++ b0)), scaleCode p.scaleShift (sint16 (b3 ++ b2))⟩) ∧
    (p.rawEndian = .big → convert p b0 b1 b2 b3 =
      ⟨scaleCode p.scaleShift (sint16 (b0 ++ b1)), scaleCode p.scaleShift (sint16 (b2 ++ b3))⟩)

/-- R165, R52, R143: output sample `k` of a PRODUCE is the conversion of the four bytes of its own raw sample in storage,
and so depends on them alone. Of a raw block as it is delivered, sample `i` is the conversion of bytes 4i to 4i+3, and a
block has one sample per four bytes. -/
def Obligations.LanesAreIndependent : Prop :=
  (∀ (s t : State) (want : Operand) (r : Response) (k : Nat) (z : Sample), exec (.produce want) s = .next t →
    t.io.consOut = r :: s.io.consOut → r.payload[k]? = some z →
    let slot := (s.st.head + (s.st.offset + k) / s.st.slotSamples) % s.st.nSlots.toNat
    let base := s.st.slotAddr slot (4 * ((s.st.offset + k) % s.st.slotSamples))
    z = convert s.params (s.st.storageByte base) (s.st.storageByte (base + 1)) (s.st.storageByte (base + 2))
      (s.st.storageByte (base + 3))) ∧
  ∀ (p : Params) (bytes : List Byte),
    (blockSamples p bytes).length = bytes.length / 4 ∧
    ∀ i b0 b1 b2 b3, bytes[4 * i]? = some b0 → bytes[4 * i + 1]? = some b1 → bytes[4 * i + 2]? = some b2 →
      bytes[4 * i + 3]? = some b3 → (blockSamples p bytes)[i]? = some (convert p b0 b1 b2 b3)

/-- R53: an output payload has 8 bytes a sample: the real part in bytes 0 to 3, the imaginary part in bytes 4 to 7, each
little-endian. -/
def Obligations.OutputLayout : Prop :=
  ∀ (r : Response) (i : Nat) (z : Sample), r.payload[i]? = some z →
    r.payloadBytes.length = 8 * r.payload.length ∧
    (∀ k, k < 4 → r.payloadBytes[8 * i + k]? = some (z.re.extractLsb' (8 * k) 8)) ∧
    (∀ k, k < 4 → r.payloadBytes[8 * i + 4 + k]? = some (z.im.extractLsb' (8 * k) 8))

/-! ### Whole-machine rules -/

/-- R181, R184: an error response comes from the port's current command and carries its cause; of `st` nothing changes
but the fault record, which keeps the first fault, and the hold of a PRODUCE that it ends. -/
def Obligations.FaultsArePrecise : Prop :=
  ∀ (s t : State) (p : Port) (r : Response), s.Inv → step s = .next t →
    t.io.out p = r :: s.io.out p → r.err = true →
    ∃ c cs cause, s.io.cmds p = c :: cs ∧
      Faulted (s.tick.withConsWait (if p = .consumer then .none else s.st.consWait)) t p cause c.word

/-- R37, R181, R185: once a fault is recorded, no step but a hardware reset changes the record. -/
def Obligations.FaultRecordIsSticky : Prop :=
  ∀ s t : State, step s = .next t → s.nextPick ≠ .reset → s.st.fault = true →
    t.st.fault = true ∧ t.st.faultCause = s.st.faultCause ∧ t.st.faultInfo = s.st.faultInfo

/-- R22, R23: only a START sets `running` or `loop_active`. -/
def Obligations.OnlyStartBeginsAStream : Prop :=
  ∀ s t : State, step s = .next t →
    (s.st.running = false ∧ t.st.running = true) ∨ (s.st.loopActive = false ∧ t.st.loopActive = true) →
    s.nextPick = .host ∧ s.st.hostWait = .none ∧ ∃ c cs, s.io.hostCmds = c :: cs ∧ c.word = 0x40000000

/-- R23: only a DRV_EXIT, or a hardware reset, clears `loop_active`. -/
def Obligations.OnlyDrvExitEndsTheLoop : Prop :=
  ∀ s t : State, s.Inv → step s = .next t → s.st.loopActive = true → t.st.loopActive = false →
    s.nextPick = .reset ∨
    (s.nextPick = .producer ∧ ∃ (c : Command) (cs : List Command) (status : Operand),
      s.io.prodCmds = c :: cs ∧ c.word = 0x9#4 ++ status)

/-- R27: the ring is never resized: while the block stays open no step changes `N` or `BUFLEN`. -/
def Obligations.OpenRingIsNeverResized : Prop :=
  ∀ s t : State, step s = .next t → s.st.life = .opened → t.st.life = .opened →
    t.st.nSlots = s.st.nSlots ∧ t.st.buflen = s.st.buflen

/-- R28, R54: while the block stays open, a step changes no byte outside the slot at `tail`, and any byte at all only where
it is a push: the producer port's step, of a DELIVER of BUFLEN bytes, of a running stream past its skip window. -/
def Obligations.OnlyPushWritesSlots : Prop :=
  ∀ s t : State, step s = .next t → s.st.life = .opened → t.st.life = .opened →
    (∀ a, a < s.st.slotAddr s.st.tail 0 ∨ s.st.slotAddr s.st.tail 0 + s.st.buflen.toNat ≤ a →
      t.st.storageByte a = s.st.storageByte a) ∧
    (∀ a, t.st.storageByte a ≠ s.st.storageByte a →
      s.nextPick = .producer ∧ s.st.running = true ∧ s.st.skipRem = 0 ∧
      ∃ c cs, s.io.prodCmds = c :: cs ∧ c.word = 0x8#4 ++ s.st.buflen)

/-- R38, R70, R77: commands are taken in issue order and each is answered once: at a step a port either answers its
current command or keeps it, and at most one port answers. -/
def Obligations.EachCommandIsAnsweredOnce : Prop :=
  ∀ s t : State, s.Inv → step s = .next t → s.nextPick ≠ .reset →
    (∀ p, (t.io.out p = s.io.out p ∧ t.io.cmds p = s.io.cmds p) ∨
      (∃ c r, s.io.cmds p = c :: t.io.cmds p ∧ t.io.out p = r :: s.io.out p)) ∧
    (∀ p q, t.io.out p ≠ s.io.out p → t.io.out q ≠ s.io.out q → p = q)

/-- R35, R189: the overflow counter changes only by an overflow, by one mod 2^32, or to 0 at an OPEN or a hardware
reset. -/
def Obligations.OverflowCounterWriters : Prop :=
  ∀ s t : State, step s = .next t → t.st.ovfCount ≠ s.st.ovfCount →
    (t.st.ovfCount = 0 ∧
      (s.nextPick = .reset ∨ (s.nextPick = .host ∧ s.st.life = .closed ∧ t.st.life = .opened))) ∨
    (t.st.ovfCount.toNat = (s.st.ovfCount.toNat + 1) % 2 ^ 32 ∧ s.nextPick = .producer ∧
      s.st.used = s.st.nSlots.toNat ∧ s.st.running = true ∧ s.st.skipRem = 0)

/-- R42: the configuration record is no state: no step changes it. -/
def Obligations.ParametersNeverChange : Prop :=
  ∀ s t : State, step s = .next t → t.params = s.params

/-- R60: the ring is a queue with drop-oldest. A step leaves the unconsumed samples as they are and emits none, or a host
command or reset empties it and nothing is emitted, or the producer appends the block that its command delivers, in order,
after dropping the rest of the oldest block where the ring is full, and nothing is emitted, or the consumer takes samples
from the front and emits exactly those. -/
def Obligations.RingIsADropOldestQueue : Prop :=
  ∀ s t : State, s.Inv → step s = .next t →
    (t.st.pending s.params = s.st.pending s.params ∧
      (t.io.consOut = s.io.consOut ∨ ∃ r, t.io.consOut = r :: s.io.consOut ∧ r.payload = [])) ∨
    (t.st.pending s.params = [] ∧ (s.nextPick = .host ∨ s.nextPick = .reset) ∧ t.io.consOut = s.io.consOut) ∨
    (s.nextPick = .producer ∧ s.st.running = true ∧ s.st.skipRem = 0 ∧ t.io.consOut = s.io.consOut ∧
      (s.tick.deliveredPayload s.st.buflen).length = s.st.buflen.toNat ∧
      (∀ c cs, s.io.prodCmds = c :: cs → c.payload.length = s.st.buflen.toNat →
        s.tick.deliveredPayload s.st.buflen = c.payload) ∧
      t.st.pending s.params =
        (if s.st.used = s.st.nSlots.toNat then (s.st.pending s.params).drop (s.st.slotSamples - s.st.offset)
         else s.st.pending s.params) ++ blockSamples s.params (s.tick.deliveredPayload s.st.buflen)) ∨
    (s.nextPick = .consumer ∧
      ∃ n, t.st.pending s.params = (s.st.pending s.params).drop n ∧
        t.io.consOut = ⟨false, BitVec.ofNat 32 n, (s.st.pending s.params).take n⟩ :: s.io.consOut)

/-- R44, R122, R123: samples are conserved. A push adds `S` samples less what the dropped block still held, a PRODUCE takes
away what it emits. -/
def Obligations.SamplesAreConserved : Prop :=
  (∀ s t : State, s.Inv → s.st.running = true → s.st.skipRem = 0 → exec (.deliver s.st.buflen) s = .next t →
    t.st.available + (if s.st.used = s.st.nSlots.toNat then s.st.slotSamples - s.st.offset else 0) =
      s.st.available + s.st.slotSamples) ∧
  (∀ (s t : State) (want : Operand) (r : Response), s.Inv → exec (.produce want) s = .next t →
    t.io.consOut = r :: s.io.consOut → t.st.available + r.payload.length = s.st.available)

/-- R142(d), D43: a stopped block with an empty ring stays stopped and empty until a START, and while it stays open every
PRODUCE answers end-of-stream. A CLOSE frees the block, and then a PRODUCE faults (R106). -/
def Obligations.EndOfStreamStaysUntilStart : Prop :=
  ∀ s t : State, step s = .next t → s.st.used = 0 → s.st.running = false →
    t.st.used = 0 ∧
    ((t.st.running = false ∧
        (t.st.life = .opened → ∀ want, ∃ u, exec (.produce want) t = .next u ∧
          Answered t u .consumer ⟨false, 0x80000000, []⟩)) ∨
      (s.nextPick = .host ∧ ∃ c cs, s.io.hostCmds = c :: cs ∧ c.word = 0x40000000))

/-- R50 and log 7: the one stop of the model: a DELIVER that would push with no slot at `tail`, and a PRODUCE that would
read past the storage, fault; no state of the invariant does. -/
def Obligations.StopsOutsideStorage : Prop :=
  (∀ s : State, s.st.loopActive = true → s.st.running = true → s.st.skipRem = 0 → s.st.nSlots = 0 →
    exec (.deliver s.st.buflen) s = .fault .slotOutsideStorage) ∧
  (∀ (s : State) (want : Operand), s.st.life = .opened → s.st.running = false → s.st.used ≠ 0 → want ≠ 0 →
    s.st.nSlots.toNat ≤ s.st.head → exec (.produce want) s = .fault .slotOutsideStorage) ∧
  (∀ (i : Instr) (s : State), s.Inv → ∃ t, exec i s = .next t)

/-- R214, R38: in a state in which the run has ended no port has a command or a hold, so every step but a hardware reset is
the idle step of log 10: it changes nothing but the schedule and the draw counter (`State.tick`, log 1). That the machine
takes an idle step where the spec has no step is the model's choice, and so is the reading of "no command left to issue" as
empty streams (log 21): an agent may still issue after such a state, and the run then goes on. -/
def Obligations.EndedRunTakesNoStep : Prop :=
  ∀ s : State, s.ended → s.nextPick ≠ .reset → step s = .next s.tick

/-- R195, R214: once a fault is recorded, no step but a hardware reset leads to a state in which the run has ended well
(`State.ended` reads "no command left to issue" as empty streams, the choice of log 21; the statement holds of any reading). -/
def Obligations.FaultedRunNeverEndsWell : Prop :=
  ∀ s t : State, s.faulted → s.nextPick ≠ .reset → step s = .next t → t.faulted ∧ ¬ t.endedWell
end

