-- ==== Sys2Proof/Laws/Binary32.lean ====
section
/-! SUPPORT. The fields of a binary32 pattern and the exponent that `topBit` finds (R164). -/

namespace Sys2Proof.Machine

theorem topBit_spec (k m : Nat) (h1 : 1 ≤ m) (h2 : m < 2 ^ (k + 1)) :
    topBit k m ≤ k ∧ 2 ^ topBit k m ≤ m ∧ m < 2 ^ (topBit k m + 1) := by
  induction k with
  | zero => simp [topBit]; omega
  | succ k ih =>
    unfold topBit
    split
    · exact ⟨le_rfl, by assumption, h2⟩
    · have := ih (by omega)
      exact ⟨by omega, this.2⟩

@[simp] theorem binary32_sign (n : Bool) (e f : Nat) : (binary32 n e f).getLsbD 31 = n := by
  simp only [binary32, BitVec.getLsbD_append]
  simp

theorem binary32_exponent (n : Bool) {e : Nat} (f : Nat) (he : e < 256) :
    ((binary32 n e f).extractLsb' 23 8).toNat = e := by
  have : (binary32 n e f).extractLsb' 23 8 = BitVec.ofNat 8 e := by
    ext i hi
    simp only [binary32, BitVec.getElem_extractLsb', BitVec.getLsbD_append]
    have h1 : ¬ 23 + i < 23 := by omega
    have h2 : 23 + i - 23 = i := by omega
    simp [h1, h2, hi]
  rw [this]
  simp
  omega

theorem binary32_fraction (n : Bool) (e : Nat) {f : Nat} (hf : f < 2 ^ 23) :
    ((binary32 n e f).extractLsb' 0 23).toNat = f := by
  have : (binary32 n e f).extractLsb' 0 23 = BitVec.ofNat 23 f := by
    ext i hi
    simp only [binary32, BitVec.getElem_extractLsb', BitVec.getLsbD_append]
    simp [hi]
  rw [this]
  simp
  omega

theorem natAbs_sint16_lt (h : Half) : (sint16 h).natAbs < 2 ^ 16 := by
  have := h.isLt
  simp only [sint16, BitVec.toInt_eq_toNat_cond]
  split <;> omega

/-- The pattern of a nonzero code: its exponent `e` and a fraction that fits its field. -/
theorem scaleCode_fields (k : Nat) {v : Int} (hv : v ≠ 0) (hr : v.natAbs < 2 ^ 16) :
    ∃ e, e ≤ 15 ∧ 2 ^ e ≤ v.natAbs ∧ v.natAbs < 2 ^ (e + 1) ∧
      scaleCode k v = binary32 (decide (v < 0)) (e + 127 - k) ((v.natAbs - 2 ^ e) * 2 ^ (23 - e)) ∧
      (v.natAbs - 2 ^ e) * 2 ^ (23 - e) < 2 ^ 23 := by
  obtain ⟨h1, h2, h3⟩ := topBit_spec 15 v.natAbs (by omega) hr
  refine ⟨topBit 15 v.natAbs, h1, h2, h3, by simp [scaleCode, hv], ?_⟩
  have : (2 : Nat) ^ 23 = 2 ^ topBit 15 v.natAbs * 2 ^ (23 - topBit 15 v.natAbs) := by
    rw [← pow_add]
    congr 1
    omega
  rw [this]
  apply Nat.mul_lt_mul_of_pos_right
  · rw [pow_succ] at h3
    omega
  · positivity

end Sys2Proof.Machine
end

