-- ==== Sys2Proof/Laws/State.lean ====
section
/-! SUPPORT. One lemma per field per update of the state, so that no later proof unfolds a record update. -/

namespace Sys2Proof.Machine

variable (st : Block) (s : State)

/-! ### `Block.slotWrite` -/

@[simp] theorem Block.slotWrite_life (s : Nat) (bytes : List Byte) : (st.slotWrite s bytes).life = st.life := rfl
@[simp] theorem Block.slotWrite_running (s : Nat) (bytes : List Byte) : (st.slotWrite s bytes).running = st.running := rfl
@[simp] theorem Block.slotWrite_loopActive (s : Nat) (bytes : List Byte) : (st.slotWrite s bytes).loopActive = st.loopActive := rfl
@[simp] theorem Block.slotWrite_cancelReq (s : Nat) (bytes : List Byte) : (st.slotWrite s bytes).cancelReq = st.cancelReq := rfl
@[simp] theorem Block.slotWrite_cfgBuffers (s : Nat) (bytes : List Byte) : (st.slotWrite s bytes).cfgBuffers = st.cfgBuffers := rfl
@[simp] theorem Block.slotWrite_cfgBuflen (s : Nat) (bytes : List Byte) : (st.slotWrite s bytes).cfgBuflen = st.cfgBuflen := rfl
@[simp] theorem Block.slotWrite_nSlots (s : Nat) (bytes : List Byte) : (st.slotWrite s bytes).nSlots = st.nSlots := rfl
@[simp] theorem Block.slotWrite_buflen (s : Nat) (bytes : List Byte) : (st.slotWrite s bytes).buflen = st.buflen := rfl
@[simp] theorem Block.slotWrite_slots (s : Nat) (bytes : List Byte) : (st.slotWrite s bytes).slots = { st.slots with cells := Memory.writeBlock st.slots.cells (st.slotAddr s 0) bytes } := rfl
@[simp] theorem Block.slotWrite_head (s : Nat) (bytes : List Byte) : (st.slotWrite s bytes).head = st.head := rfl
@[simp] theorem Block.slotWrite_used (s : Nat) (bytes : List Byte) : (st.slotWrite s bytes).used = st.used := rfl
@[simp] theorem Block.slotWrite_offset (s : Nat) (bytes : List Byte) : (st.slotWrite s bytes).offset = st.offset := rfl
@[simp] theorem Block.slotWrite_primed (s : Nat) (bytes : List Byte) : (st.slotWrite s bytes).primed = st.primed := rfl
@[simp] theorem Block.slotWrite_skipRem (s : Nat) (bytes : List Byte) : (st.slotWrite s bytes).skipRem = st.skipRem := rfl
@[simp] theorem Block.slotWrite_ovfCount (s : Nat) (bytes : List Byte) : (st.slotWrite s bytes).ovfCount = st.ovfCount := rfl
@[simp] theorem Block.slotWrite_drvStatus (s : Nat) (bytes : List Byte) : (st.slotWrite s bytes).drvStatus = st.drvStatus := rfl
@[simp] theorem Block.slotWrite_fault (s : Nat) (bytes : List Byte) : (st.slotWrite s bytes).fault = st.fault := rfl
@[simp] theorem Block.slotWrite_faultCause (s : Nat) (bytes : List Byte) : (st.slotWrite s bytes).faultCause = st.faultCause := rfl
@[simp] theorem Block.slotWrite_faultInfo (s : Nat) (bytes : List Byte) : (st.slotWrite s bytes).faultInfo = st.faultInfo := rfl
@[simp] theorem Block.slotWrite_hostWait (s : Nat) (bytes : List Byte) : (st.slotWrite s bytes).hostWait = st.hostWait := rfl
@[simp] theorem Block.slotWrite_consWait (s : Nat) (bytes : List Byte) : (st.slotWrite s bytes).consWait = st.consWait := rfl

/-! ### `Block.dropOldest` -/

@[simp] theorem Block.dropOldest_life : st.dropOldest.life = st.life := rfl
@[simp] theorem Block.dropOldest_running : st.dropOldest.running = st.running := rfl
@[simp] theorem Block.dropOldest_loopActive : st.dropOldest.loopActive = st.loopActive := rfl
@[simp] theorem Block.dropOldest_cancelReq : st.dropOldest.cancelReq = st.cancelReq := rfl
@[simp] theorem Block.dropOldest_cfgBuffers : st.dropOldest.cfgBuffers = st.cfgBuffers := rfl
@[simp] theorem Block.dropOldest_cfgBuflen : st.dropOldest.cfgBuflen = st.cfgBuflen := rfl
@[simp] theorem Block.dropOldest_nSlots : st.dropOldest.nSlots = st.nSlots := rfl
@[simp] theorem Block.dropOldest_buflen : st.dropOldest.buflen = st.buflen := rfl
@[simp] theorem Block.dropOldest_slots : st.dropOldest.slots = st.slots := rfl
@[simp] theorem Block.dropOldest_head : st.dropOldest.head = (st.head + 1) % st.nSlots.toNat := rfl
@[simp] theorem Block.dropOldest_used : st.dropOldest.used = st.used := rfl
@[simp] theorem Block.dropOldest_offset : st.dropOldest.offset = 0 := rfl
@[simp] theorem Block.dropOldest_primed : st.dropOldest.primed = st.primed := rfl
@[simp] theorem Block.dropOldest_skipRem : st.dropOldest.skipRem = st.skipRem := rfl
@[simp] theorem Block.dropOldest_ovfCount : st.dropOldest.ovfCount = st.ovfCount + 1 := rfl
@[simp] theorem Block.dropOldest_drvStatus : st.dropOldest.drvStatus = st.drvStatus := rfl
@[simp] theorem Block.dropOldest_fault : st.dropOldest.fault = st.fault := rfl
@[simp] theorem Block.dropOldest_faultCause : st.dropOldest.faultCause = st.faultCause := rfl
@[simp] theorem Block.dropOldest_faultInfo : st.dropOldest.faultInfo = st.faultInfo := rfl
@[simp] theorem Block.dropOldest_hostWait : st.dropOldest.hostWait = st.hostWait := rfl
@[simp] theorem Block.dropOldest_consWait : st.dropOldest.consWait = st.consWait := rfl

/-! ### `Block.advance` -/

@[simp] theorem Block.advance_life : st.advance.life = st.life := rfl
@[simp] theorem Block.advance_running : st.advance.running = st.running := rfl
@[simp] theorem Block.advance_loopActive : st.advance.loopActive = st.loopActive := rfl
@[simp] theorem Block.advance_cancelReq : st.advance.cancelReq = st.cancelReq := rfl
@[simp] theorem Block.advance_cfgBuffers : st.advance.cfgBuffers = st.cfgBuffers := rfl
@[simp] theorem Block.advance_cfgBuflen : st.advance.cfgBuflen = st.cfgBuflen := rfl
@[simp] theorem Block.advance_nSlots : st.advance.nSlots = st.nSlots := rfl
@[simp] theorem Block.advance_buflen : st.advance.buflen = st.buflen := rfl
@[simp] theorem Block.advance_slots : st.advance.slots = st.slots := rfl
@[simp] theorem Block.advance_head : st.advance.head = (st.head + 1) % st.nSlots.toNat := rfl
@[simp] theorem Block.advance_used : st.advance.used = st.used - 1 := rfl
@[simp] theorem Block.advance_offset : st.advance.offset = 0 := rfl
@[simp] theorem Block.advance_primed : st.advance.primed = st.primed := rfl
@[simp] theorem Block.advance_skipRem : st.advance.skipRem = st.skipRem := rfl
@[simp] theorem Block.advance_ovfCount : st.advance.ovfCount = st.ovfCount := rfl
@[simp] theorem Block.advance_drvStatus : st.advance.drvStatus = st.drvStatus := rfl
@[simp] theorem Block.advance_fault : st.advance.fault = st.fault := rfl
@[simp] theorem Block.advance_faultCause : st.advance.faultCause = st.faultCause := rfl
@[simp] theorem Block.advance_faultInfo : st.advance.faultInfo = st.faultInfo := rfl
@[simp] theorem Block.advance_hostWait : st.advance.hostWait = st.hostWait := rfl
@[simp] theorem Block.advance_consWait : st.advance.consWait = st.consWait := rfl

/-! ### `Block.allocate` -/

@[simp] theorem Block.allocate_life (d : Nat) : (st.allocate d).life = .opened := rfl
@[simp] theorem Block.allocate_running (d : Nat) : (st.allocate d).running = false := rfl
@[simp] theorem Block.allocate_loopActive (d : Nat) : (st.allocate d).loopActive = false := rfl
@[simp] theorem Block.allocate_cancelReq (d : Nat) : (st.allocate d).cancelReq = false := rfl
@[simp] theorem Block.allocate_cfgBuffers (d : Nat) : (st.allocate d).cfgBuffers = st.cfgBuffers := rfl
@[simp] theorem Block.allocate_cfgBuflen (d : Nat) : (st.allocate d).cfgBuflen = st.cfgBuflen := rfl
@[simp] theorem Block.allocate_nSlots (d : Nat) : (st.allocate d).nSlots = st.cfgBuffers := rfl
@[simp] theorem Block.allocate_buflen (d : Nat) : (st.allocate d).buflen = st.cfgBuflen := rfl
@[simp] theorem Block.allocate_slots (d : Nat) : (st.allocate d).slots = ⟨d, []⟩ := rfl
@[simp] theorem Block.allocate_head (d : Nat) : (st.allocate d).head = 0 := rfl
@[simp] theorem Block.allocate_used (d : Nat) : (st.allocate d).used = 0 := rfl
@[simp] theorem Block.allocate_offset (d : Nat) : (st.allocate d).offset = 0 := rfl
@[simp] theorem Block.allocate_primed (d : Nat) : (st.allocate d).primed = false := rfl
@[simp] theorem Block.allocate_skipRem (d : Nat) : (st.allocate d).skipRem = 0 := rfl
@[simp] theorem Block.allocate_ovfCount (d : Nat) : (st.allocate d).ovfCount = 0 := rfl
@[simp] theorem Block.allocate_drvStatus (d : Nat) : (st.allocate d).drvStatus = 0 := rfl
@[simp] theorem Block.allocate_fault (d : Nat) : (st.allocate d).fault = st.fault := rfl
@[simp] theorem Block.allocate_faultCause (d : Nat) : (st.allocate d).faultCause = st.faultCause := rfl
@[simp] theorem Block.allocate_faultInfo (d : Nat) : (st.allocate d).faultInfo = st.faultInfo := rfl
@[simp] theorem Block.allocate_hostWait (d : Nat) : (st.allocate d).hostWait = st.hostWait := rfl
@[simp] theorem Block.allocate_consWait (d : Nat) : (st.allocate d).consWait = st.consWait := rfl

/-! ### `Block.beginStream` -/

@[simp] theorem Block.beginStream_life (k : Nat) : (st.beginStream k).life = st.life := rfl
@[simp] theorem Block.beginStream_running (k : Nat) : (st.beginStream k).running = true := rfl
@[simp] theorem Block.beginStream_loopActive (k : Nat) : (st.beginStream k).loopActive = true := rfl
@[simp] theorem Block.beginStream_cancelReq (k : Nat) : (st.beginStream k).cancelReq = false := rfl
@[simp] theorem Block.beginStream_cfgBuffers (k : Nat) : (st.beginStream k).cfgBuffers = st.cfgBuffers := rfl
@[simp] theorem Block.beginStream_cfgBuflen (k : Nat) : (st.beginStream k).cfgBuflen = st.cfgBuflen := rfl
@[simp] theorem Block.beginStream_nSlots (k : Nat) : (st.beginStream k).nSlots = st.nSlots := rfl
@[simp] theorem Block.beginStream_buflen (k : Nat) : (st.beginStream k).buflen = st.buflen := rfl
@[simp] theorem Block.beginStream_slots (k : Nat) : (st.beginStream k).slots = st.slots := rfl
@[simp] theorem Block.beginStream_head (k : Nat) : (st.beginStream k).head = 0 := rfl
@[simp] theorem Block.beginStream_used (k : Nat) : (st.beginStream k).used = 0 := rfl
@[simp] theorem Block.beginStream_offset (k : Nat) : (st.beginStream k).offset = 0 := rfl
@[simp] theorem Block.beginStream_primed (k : Nat) : (st.beginStream k).primed = false := rfl
@[simp] theorem Block.beginStream_skipRem (k : Nat) : (st.beginStream k).skipRem = k := rfl
@[simp] theorem Block.beginStream_ovfCount (k : Nat) : (st.beginStream k).ovfCount = st.ovfCount := rfl
@[simp] theorem Block.beginStream_drvStatus (k : Nat) : (st.beginStream k).drvStatus = 0 := rfl
@[simp] theorem Block.beginStream_fault (k : Nat) : (st.beginStream k).fault = st.fault := rfl
@[simp] theorem Block.beginStream_faultCause (k : Nat) : (st.beginStream k).faultCause = st.faultCause := rfl
@[simp] theorem Block.beginStream_faultInfo (k : Nat) : (st.beginStream k).faultInfo = st.faultInfo := rfl
@[simp] theorem Block.beginStream_hostWait (k : Nat) : (st.beginStream k).hostWait = st.hostWait := rfl
@[simp] theorem Block.beginStream_consWait (k : Nat) : (st.beginStream k).consWait = st.consWait := rfl

/-! ### `Block.cancel` -/

@[simp] theorem Block.cancel_life (w : HostWait) : (st.cancel w).life = st.life := rfl
@[simp] theorem Block.cancel_running (w : HostWait) : (st.cancel w).running = false := rfl
@[simp] theorem Block.cancel_loopActive (w : HostWait) : (st.cancel w).loopActive = st.loopActive := rfl
@[simp] theorem Block.cancel_cancelReq (w : HostWait) : (st.cancel w).cancelReq = true := rfl
@[simp] theorem Block.cancel_cfgBuffers (w : HostWait) : (st.cancel w).cfgBuffers = st.cfgBuffers := rfl
@[simp] theorem Block.cancel_cfgBuflen (w : HostWait) : (st.cancel w).cfgBuflen = st.cfgBuflen := rfl
@[simp] theorem Block.cancel_nSlots (w : HostWait) : (st.cancel w).nSlots = st.nSlots := rfl
@[simp] theorem Block.cancel_buflen (w : HostWait) : (st.cancel w).buflen = st.buflen := rfl
@[simp] theorem Block.cancel_slots (w : HostWait) : (st.cancel w).slots = st.slots := rfl
@[simp] theorem Block.cancel_head (w : HostWait) : (st.cancel w).head = st.head := rfl
@[simp] theorem Block.cancel_used (w : HostWait) : (st.cancel w).used = st.used := rfl
@[simp] theorem Block.cancel_offset (w : HostWait) : (st.cancel w).offset = st.offset := rfl
@[simp] theorem Block.cancel_primed (w : HostWait) : (st.cancel w).primed = st.primed := rfl
@[simp] theorem Block.cancel_skipRem (w : HostWait) : (st.cancel w).skipRem = st.skipRem := rfl
@[simp] theorem Block.cancel_ovfCount (w : HostWait) : (st.cancel w).ovfCount = st.ovfCount := rfl
@[simp] theorem Block.cancel_drvStatus (w : HostWait) : (st.cancel w).drvStatus = st.drvStatus := rfl
@[simp] theorem Block.cancel_fault (w : HostWait) : (st.cancel w).fault = st.fault := rfl
@[simp] theorem Block.cancel_faultCause (w : HostWait) : (st.cancel w).faultCause = st.faultCause := rfl
@[simp] theorem Block.cancel_faultInfo (w : HostWait) : (st.cancel w).faultInfo = st.faultInfo := rfl
@[simp] theorem Block.cancel_hostWait (w : HostWait) : (st.cancel w).hostWait = w := rfl
@[simp] theorem Block.cancel_consWait (w : HostWait) : (st.cancel w).consWait = st.consWait := rfl

/-! ### `Block.joined` -/

@[simp] theorem Block.joined_life : st.joined.life = st.life := rfl
@[simp] theorem Block.joined_running : st.joined.running = st.running := rfl
@[simp] theorem Block.joined_loopActive : st.joined.loopActive = st.loopActive := rfl
@[simp] theorem Block.joined_cancelReq : st.joined.cancelReq = false := rfl
@[simp] theorem Block.joined_cfgBuffers : st.joined.cfgBuffers = st.cfgBuffers := rfl
@[simp] theorem Block.joined_cfgBuflen : st.joined.cfgBuflen = st.cfgBuflen := rfl
@[simp] theorem Block.joined_nSlots : st.joined.nSlots = st.nSlots := rfl
@[simp] theorem Block.joined_buflen : st.joined.buflen = st.buflen := rfl
@[simp] theorem Block.joined_slots : st.joined.slots = st.slots := rfl
@[simp] theorem Block.joined_head : st.joined.head = st.head := rfl
@[simp] theorem Block.joined_used : st.joined.used = st.used := rfl
@[simp] theorem Block.joined_offset : st.joined.offset = st.offset := rfl
@[simp] theorem Block.joined_primed : st.joined.primed = st.primed := rfl
@[simp] theorem Block.joined_skipRem : st.joined.skipRem = st.skipRem := rfl
@[simp] theorem Block.joined_ovfCount : st.joined.ovfCount = st.ovfCount := rfl
@[simp] theorem Block.joined_drvStatus : st.joined.drvStatus = st.drvStatus := rfl
@[simp] theorem Block.joined_fault : st.joined.fault = st.fault := rfl
@[simp] theorem Block.joined_faultCause : st.joined.faultCause = st.faultCause := rfl
@[simp] theorem Block.joined_faultInfo : st.joined.faultInfo = st.faultInfo := rfl
@[simp] theorem Block.joined_hostWait : st.joined.hostWait = .none := rfl
@[simp] theorem Block.joined_consWait : st.joined.consWait = st.consWait := rfl

/-! ### `Block.free` -/

@[simp] theorem Block.free_life : st.free.life = .closed := rfl
@[simp] theorem Block.free_running : st.free.running = false := rfl
@[simp] theorem Block.free_loopActive : st.free.loopActive = st.loopActive := rfl
@[simp] theorem Block.free_cancelReq : st.free.cancelReq = false := rfl
@[simp] theorem Block.free_cfgBuffers : st.free.cfgBuffers = st.cfgBuffers := rfl
@[simp] theorem Block.free_cfgBuflen : st.free.cfgBuflen = st.cfgBuflen := rfl
@[simp] theorem Block.free_nSlots : st.free.nSlots = 0 := rfl
@[simp] theorem Block.free_buflen : st.free.buflen = 0 := rfl
@[simp] theorem Block.free_slots : st.free.slots = Slots.empty := rfl
@[simp] theorem Block.free_head : st.free.head = 0 := rfl
@[simp] theorem Block.free_used : st.free.used = 0 := rfl
@[simp] theorem Block.free_offset : st.free.offset = 0 := rfl
@[simp] theorem Block.free_primed : st.free.primed = false := rfl
@[simp] theorem Block.free_skipRem : st.free.skipRem = 0 := rfl
@[simp] theorem Block.free_ovfCount : st.free.ovfCount = st.ovfCount := rfl
@[simp] theorem Block.free_drvStatus : st.free.drvStatus = st.drvStatus := rfl
@[simp] theorem Block.free_fault : st.free.fault = st.fault := rfl
@[simp] theorem Block.free_faultCause : st.free.faultCause = st.faultCause := rfl
@[simp] theorem Block.free_faultInfo : st.free.faultInfo = st.faultInfo := rfl
@[simp] theorem Block.free_hostWait : st.free.hostWait = st.hostWait := rfl
@[simp] theorem Block.free_consWait : st.free.consWait = st.consWait := rfl

/-! ### `Block.loopExit` -/

@[simp] theorem Block.loopExit_life (x : Operand) : (st.loopExit x).life = st.life := rfl
@[simp] theorem Block.loopExit_running (x : Operand) : (st.loopExit x).running = false := rfl
@[simp] theorem Block.loopExit_loopActive (x : Operand) : (st.loopExit x).loopActive = false := rfl
@[simp] theorem Block.loopExit_cancelReq (x : Operand) : (st.loopExit x).cancelReq = st.cancelReq := rfl
@[simp] theorem Block.loopExit_cfgBuffers (x : Operand) : (st.loopExit x).cfgBuffers = st.cfgBuffers := rfl
@[simp] theorem Block.loopExit_cfgBuflen (x : Operand) : (st.loopExit x).cfgBuflen = st.cfgBuflen := rfl
@[simp] theorem Block.loopExit_nSlots (x : Operand) : (st.loopExit x).nSlots = st.nSlots := rfl
@[simp] theorem Block.loopExit_buflen (x : Operand) : (st.loopExit x).buflen = st.buflen := rfl
@[simp] theorem Block.loopExit_slots (x : Operand) : (st.loopExit x).slots = st.slots := rfl
@[simp] theorem Block.loopExit_head (x : Operand) : (st.loopExit x).head = st.head := rfl
@[simp] theorem Block.loopExit_used (x : Operand) : (st.loopExit x).used = st.used := rfl
@[simp] theorem Block.loopExit_offset (x : Operand) : (st.loopExit x).offset = st.offset := rfl
@[simp] theorem Block.loopExit_primed (x : Operand) : (st.loopExit x).primed = st.primed := rfl
@[simp] theorem Block.loopExit_skipRem (x : Operand) : (st.loopExit x).skipRem = st.skipRem := rfl
@[simp] theorem Block.loopExit_ovfCount (x : Operand) : (st.loopExit x).ovfCount = st.ovfCount := rfl
@[simp] theorem Block.loopExit_drvStatus (x : Operand) : (st.loopExit x).drvStatus = x := rfl
@[simp] theorem Block.loopExit_fault (x : Operand) : (st.loopExit x).fault = st.fault := rfl
@[simp] theorem Block.loopExit_faultCause (x : Operand) : (st.loopExit x).faultCause = st.faultCause := rfl
@[simp] theorem Block.loopExit_faultInfo (x : Operand) : (st.loopExit x).faultInfo = st.faultInfo := rfl
@[simp] theorem Block.loopExit_hostWait (x : Operand) : (st.loopExit x).hostWait = st.hostWait := rfl
@[simp] theorem Block.loopExit_consWait (x : Operand) : (st.loopExit x).consWait = st.consWait := rfl

/-! ### `Block.recordFault`: every field but the record -/

@[simp] theorem Block.recordFault_life (c : Cause) (w : Word) : (st.recordFault c w).life = st.life := by
  unfold Block.recordFault; split <;> rfl
@[simp] theorem Block.recordFault_running (c : Cause) (w : Word) : (st.recordFault c w).running = st.running := by
  unfold Block.recordFault; split <;> rfl
@[simp] theorem Block.recordFault_loopActive (c : Cause) (w : Word) : (st.recordFault c w).loopActive = st.loopActive := by
  unfold Block.recordFault; split <;> rfl
@[simp] theorem Block.recordFault_cancelReq (c : Cause) (w : Word) : (st.recordFault c w).cancelReq = st.cancelReq := by
  unfold Block.recordFault; split <;> rfl
@[simp] theorem Block.recordFault_cfgBuffers (c : Cause) (w : Word) : (st.recordFault c w).cfgBuffers = st.cfgBuffers := by
  unfold Block.recordFault; split <;> rfl
@[simp] theorem Block.recordFault_cfgBuflen (c : Cause) (w : Word) : (st.recordFault c w).cfgBuflen = st.cfgBuflen := by
  unfold Block.recordFault; split <;> rfl
@[simp] theorem Block.recordFault_nSlots (c : Cause) (w : Word) : (st.recordFault c w).nSlots = st.nSlots := by
  unfold Block.recordFault; split <;> rfl
@[simp] theorem Block.recordFault_buflen (c : Cause) (w : Word) : (st.recordFault c w).buflen = st.buflen := by
  unfold Block.recordFault; split <;> rfl
@[simp] theorem Block.recordFault_slots (c : Cause) (w : Word) : (st.recordFault c w).slots = st.slots := by
  unfold Block.recordFault; split <;> rfl
@[simp] theorem Block.recordFault_head (c : Cause) (w : Word) : (st.recordFault c w).head = st.head := by
  unfold Block.recordFault; split <;> rfl
@[simp] theorem Block.recordFault_used (c : Cause) (w : Word) : (st.recordFault c w).used = st.used := by
  unfold Block.recordFault; split <;> rfl
@[simp] theorem Block.recordFault_offset (c : Cause) (w : Word) : (st.recordFault c w).offset = st.offset := by
  unfold Block.recordFault; split <;> rfl
@[simp] theorem Block.recordFault_primed (c : Cause) (w : Word) : (st.recordFault c w).primed = st.primed := by
  unfold Block.recordFault; split <;> rfl
@[simp] theorem Block.recordFault_skipRem (c : Cause) (w : Word) : (st.recordFault c w).skipRem = st.skipRem := by
  unfold Block.recordFault; split <;> rfl
@[simp] theorem Block.recordFault_ovfCount (c : Cause) (w : Word) : (st.recordFault c w).ovfCount = st.ovfCount := by
  unfold Block.recordFault; split <;> rfl
@[simp] theorem Block.recordFault_drvStatus (c : Cause) (w : Word) : (st.recordFault c w).drvStatus = st.drvStatus := by
  unfold Block.recordFault; split <;> rfl
@[simp] theorem Block.recordFault_hostWait (c : Cause) (w : Word) : (st.recordFault c w).hostWait = st.hostWait := by
  unfold Block.recordFault; split <;> rfl
@[simp] theorem Block.recordFault_consWait (c : Cause) (w : Word) : (st.recordFault c w).consWait = st.consWait := by
  unfold Block.recordFault; split <;> rfl
@[simp] theorem Block.recordFault_fault (c : Cause) (w : Word) : (st.recordFault c w).fault = true := by
  unfold Block.recordFault; split <;> simp_all
@[simp] theorem Block.recordFault_faultCause (c : Cause) (w : Word) :
    (st.recordFault c w).faultCause = if st.fault = true then st.faultCause else c.code := by
  unfold Block.recordFault; split <;> rfl
@[simp] theorem Block.recordFault_faultInfo (c : Cause) (w : Word) :
    (st.recordFault c w).faultInfo = if st.fault = true then st.faultInfo else w := by
  unfold Block.recordFault; split <;> rfl

/-! ### `Block.push`: every field but the ring's -/

@[simp] theorem Block.push_life (bytes : List Byte) : (st.push bytes).life = st.life := by
  simp only [Block.push]; split <;> rfl
@[simp] theorem Block.push_running (bytes : List Byte) : (st.push bytes).running = st.running := by
  simp only [Block.push]; split <;> rfl
@[simp] theorem Block.push_loopActive (bytes : List Byte) : (st.push bytes).loopActive = st.loopActive := by
  simp only [Block.push]; split <;> rfl
@[simp] theorem Block.push_cancelReq (bytes : List Byte) : (st.push bytes).cancelReq = st.cancelReq := by
  simp only [Block.push]; split <;> rfl
@[simp] theorem Block.push_cfgBuffers (bytes : List Byte) : (st.push bytes).cfgBuffers = st.cfgBuffers := by
  simp only [Block.push]; split <;> rfl
@[simp] theorem Block.push_cfgBuflen (bytes : List Byte) : (st.push bytes).cfgBuflen = st.cfgBuflen := by
  simp only [Block.push]; split <;> rfl
@[simp] theorem Block.push_nSlots (bytes : List Byte) : (st.push bytes).nSlots = st.nSlots := by
  simp only [Block.push]; split <;> rfl
@[simp] theorem Block.push_buflen (bytes : List Byte) : (st.push bytes).buflen = st.buflen := by
  simp only [Block.push]; split <;> rfl
@[simp] theorem Block.push_primed (bytes : List Byte) : (st.push bytes).primed = st.primed := by
  simp only [Block.push]; split <;> rfl
@[simp] theorem Block.push_skipRem (bytes : List Byte) : (st.push bytes).skipRem = st.skipRem := by
  simp only [Block.push]; split <;> rfl
@[simp] theorem Block.push_drvStatus (bytes : List Byte) : (st.push bytes).drvStatus = st.drvStatus := by
  simp only [Block.push]; split <;> rfl
@[simp] theorem Block.push_fault (bytes : List Byte) : (st.push bytes).fault = st.fault := by
  simp only [Block.push]; split <;> rfl
@[simp] theorem Block.push_faultCause (bytes : List Byte) : (st.push bytes).faultCause = st.faultCause := by
  simp only [Block.push]; split <;> rfl
@[simp] theorem Block.push_faultInfo (bytes : List Byte) : (st.push bytes).faultInfo = st.faultInfo := by
  simp only [Block.push]; split <;> rfl
@[simp] theorem Block.push_hostWait (bytes : List Byte) : (st.push bytes).hostWait = st.hostWait := by
  simp only [Block.push]; split <;> rfl
@[simp] theorem Block.push_consWait (bytes : List Byte) : (st.push bytes).consWait = st.consWait := by
  simp only [Block.push]; split <;> rfl
@[simp] theorem Block.push_slots (bytes : List Byte) : (st.push bytes).slots = (st.slotWrite st.tail bytes).slots := by
  simp only [Block.push]; split <;> rfl

/-! ### `Block.prime` -/

@[simp] theorem Block.prime_life (p : Params) : (st.prime p).life = st.life := by
  unfold Block.prime; split <;> rfl
@[simp] theorem Block.prime_running (p : Params) : (st.prime p).running = st.running := by
  unfold Block.prime; split <;> rfl
@[simp] theorem Block.prime_loopActive (p : Params) : (st.prime p).loopActive = st.loopActive := by
  unfold Block.prime; split <;> rfl
@[simp] theorem Block.prime_cancelReq (p : Params) : (st.prime p).cancelReq = st.cancelReq := by
  unfold Block.prime; split <;> rfl
@[simp] theorem Block.prime_cfgBuffers (p : Params) : (st.prime p).cfgBuffers = st.cfgBuffers := by
  unfold Block.prime; split <;> rfl
@[simp] theorem Block.prime_cfgBuflen (p : Params) : (st.prime p).cfgBuflen = st.cfgBuflen := by
  unfold Block.prime; split <;> rfl
@[simp] theorem Block.prime_nSlots (p : Params) : (st.prime p).nSlots = st.nSlots := by
  unfold Block.prime; split <;> rfl
@[simp] theorem Block.prime_buflen (p : Params) : (st.prime p).buflen = st.buflen := by
  unfold Block.prime; split <;> rfl
@[simp] theorem Block.prime_slots (p : Params) : (st.prime p).slots = st.slots := by
  unfold Block.prime; split <;> rfl
@[simp] theorem Block.prime_head (p : Params) : (st.prime p).head = st.head := by
  unfold Block.prime; split <;> rfl
@[simp] theorem Block.prime_used (p : Params) : (st.prime p).used = st.used := by
  unfold Block.prime; split <;> rfl
@[simp] theorem Block.prime_offset (p : Params) : (st.prime p).offset = st.offset := by
  unfold Block.prime; split <;> rfl
@[simp] theorem Block.prime_skipRem (p : Params) : (st.prime p).skipRem = st.skipRem := by
  unfold Block.prime; split <;> rfl
@[simp] theorem Block.prime_ovfCount (p : Params) : (st.prime p).ovfCount = st.ovfCount := by
  unfold Block.prime; split <;> rfl
@[simp] theorem Block.prime_drvStatus (p : Params) : (st.prime p).drvStatus = st.drvStatus := by
  unfold Block.prime; split <;> rfl
@[simp] theorem Block.prime_fault (p : Params) : (st.prime p).fault = st.fault := by
  unfold Block.prime; split <;> rfl
@[simp] theorem Block.prime_faultCause (p : Params) : (st.prime p).faultCause = st.faultCause := by
  unfold Block.prime; split <;> rfl
@[simp] theorem Block.prime_faultInfo (p : Params) : (st.prime p).faultInfo = st.faultInfo := by
  unfold Block.prime; split <;> rfl
@[simp] theorem Block.prime_hostWait (p : Params) : (st.prime p).hostWait = st.hostWait := by
  unfold Block.prime; split <;> rfl
@[simp] theorem Block.prime_consWait (p : Params) : (st.prime p).consWait = st.consWait := by
  unfold Block.prime; split <;> rfl
@[simp] theorem Block.prime_primed (p : Params) :
    (st.prime p).primed = (decide (p.minPrefill ≤ st.used) || st.primed) := by
  unfold Block.prime; split <;> simp_all

/-! ### `Block.moveCursor`: every field but the cursor's -/

@[simp] theorem Block.moveCursor_life (n : Nat) : (st.moveCursor n).life = st.life := by
  unfold Block.moveCursor; split <;> rfl
@[simp] theorem Block.moveCursor_running (n : Nat) : (st.moveCursor n).running = st.running := by
  unfold Block.moveCursor; split <;> rfl
@[simp] theorem Block.moveCursor_loopActive (n : Nat) : (st.moveCursor n).loopActive = st.loopActive := by
  unfold Block.moveCursor; split <;> rfl
@[simp] theorem Block.moveCursor_cancelReq (n : Nat) : (st.moveCursor n).cancelReq = st.cancelReq := by
  unfold Block.moveCursor; split <;> rfl
@[simp] theorem Block.moveCursor_cfgBuffers (n : Nat) : (st.moveCursor n).cfgBuffers = st.cfgBuffers := by
  unfold Block.moveCursor; split <;> rfl
@[simp] theorem Block.moveCursor_cfgBuflen (n : Nat) : (st.moveCursor n).cfgBuflen = st.cfgBuflen := by
  unfold Block.moveCursor; split <;> rfl
@[simp] theorem Block.moveCursor_nSlots (n : Nat) : (st.moveCursor n).nSlots = st.nSlots := by
  unfold Block.moveCursor; split <;> rfl
@[simp] theorem Block.moveCursor_buflen (n : Nat) : (st.moveCursor n).buflen = st.buflen := by
  unfold Block.moveCursor; split <;> rfl
@[simp] theorem Block.moveCursor_slots (n : Nat) : (st.moveCursor n).slots = st.slots := by
  unfold Block.moveCursor; split <;> rfl
@[simp] theorem Block.moveCursor_primed (n : Nat) : (st.moveCursor n).primed = st.primed := by
  unfold Block.moveCursor; split <;> rfl
@[simp] theorem Block.moveCursor_skipRem (n : Nat) : (st.moveCursor n).skipRem = st.skipRem := by
  unfold Block.moveCursor; split <;> rfl
@[simp] theorem Block.moveCursor_ovfCount (n : Nat) : (st.moveCursor n).ovfCount = st.ovfCount := by
  unfold Block.moveCursor; split <;> rfl
@[simp] theorem Block.moveCursor_drvStatus (n : Nat) : (st.moveCursor n).drvStatus = st.drvStatus := by
  unfold Block.moveCursor; split <;> rfl
@[simp] theorem Block.moveCursor_fault (n : Nat) : (st.moveCursor n).fault = st.fault := by
  unfold Block.moveCursor; split <;> rfl
@[simp] theorem Block.moveCursor_faultCause (n : Nat) : (st.moveCursor n).faultCause = st.faultCause := by
  unfold Block.moveCursor; split <;> rfl
@[simp] theorem Block.moveCursor_faultInfo (n : Nat) : (st.moveCursor n).faultInfo = st.faultInfo := by
  unfold Block.moveCursor; split <;> rfl
@[simp] theorem Block.moveCursor_hostWait (n : Nat) : (st.moveCursor n).hostWait = st.hostWait := by
  unfold Block.moveCursor; split <;> rfl
@[simp] theorem Block.moveCursor_consWait (n : Nat) : (st.moveCursor n).consWait = st.consWait := by
  unfold Block.moveCursor; split <;> rfl

/-! ### `State` -/

@[simp] theorem State.respond_st (p : Port) (r : Response) (b : Block) : (s.respond p r b).st = b := rfl
@[simp] theorem State.respond_params (p : Port) (r : Response) (b : Block) :
    (s.respond p r b).params = s.params := rfl
@[simp] theorem State.respond_io (p : Port) (r : Response) (b : Block) :
    (s.respond p r b).io = s.io.answer p r := rfl
@[simp] theorem State.raiseFault_st (p : Port) (c : Cause) (w : Word) :
    (s.raiseFault p c w).st = s.st.recordFault c w := rfl
@[simp] theorem State.raiseFault_params (p : Port) (c : Cause) (w : Word) :
    (s.raiseFault p c w).params = s.params := rfl
@[simp] theorem State.raiseFault_io (p : Port) (c : Cause) (w : Word) :
    (s.raiseFault p c w).io = s.io.answer p (Response.fault c) := rfl
@[simp] theorem State.tick_st : s.tick.st = s.st := rfl
@[simp] theorem State.tick_params : s.tick.params = s.params := rfl
@[simp] theorem State.tick_cmds (p : Port) : s.tick.io.cmds p = s.io.cmds p := by cases p <;> rfl
@[simp] theorem State.tick_out (p : Port) : s.tick.io.out p = s.io.out p := by cases p <;> rfl
@[simp] theorem State.tick_hostCmds : s.tick.io.hostCmds = s.io.hostCmds := rfl
@[simp] theorem State.tick_prodCmds : s.tick.io.prodCmds = s.io.prodCmds := rfl
@[simp] theorem State.tick_consCmds : s.tick.io.consCmds = s.io.consCmds := rfl
@[simp] theorem State.tick_openAnswers : s.tick.io.openAnswers = s.io.openAnswers := rfl
@[simp] theorem State.tick_sched : s.tick.io.sched = s.io.sched.tail := rfl
@[simp] theorem State.tick_draws : s.tick.io.draws = s.io.draws + 1 := rfl
@[simp] theorem State.useOpenAnswer_st : s.useOpenAnswer.st = s.st := rfl
@[simp] theorem State.useOpenAnswer_params : s.useOpenAnswer.params = s.params := rfl
@[simp] theorem State.useOpenAnswer_cmds (p : Port) : s.useOpenAnswer.io.cmds p = s.io.cmds p := by
  cases p <;> rfl
@[simp] theorem State.useOpenAnswer_out (p : Port) : s.useOpenAnswer.io.out p = s.io.out p := by
  cases p <;> rfl
@[simp] theorem State.withConsWait_st (cw : ConsWait) :
    (s.withConsWait cw).st = { s.st with consWait := cw } := rfl
@[simp] theorem State.withConsWait_params (cw : ConsWait) : (s.withConsWait cw).params = s.params := rfl
@[simp] theorem State.withConsWait_io (cw : ConsWait) : (s.withConsWait cw).io = s.io := rfl

/-! ### `Io.answer` -/

variable (io : Io)

@[simp] theorem Io.answer_out (p q : Port) (r : Response) :
    (io.answer p r).out q = if p = q then r :: io.out q else io.out q := by cases p <;> cases q <;> rfl
@[simp] theorem Io.answer_cmds (p q : Port) (r : Response) :
    (io.answer p r).cmds q = if p = q then (io.cmds q).tail else io.cmds q := by cases p <;> cases q <;> rfl
@[simp] theorem Io.answer_sched (p : Port) (r : Response) : (io.answer p r).sched = io.sched := by
  cases p <;> rfl
@[simp] theorem Io.answer_openAnswers (p : Port) (r : Response) :
    (io.answer p r).openAnswers = io.openAnswers := by cases p <;> rfl
@[simp] theorem Io.answer_draws (p : Port) (r : Response) : (io.answer p r).draws = io.draws := by
  cases p <;> rfl

end Sys2Proof.Machine
end

