-- ==== Sys2Proof/Laws/Memory.lean ====
section
/-! SUPPORT. Slot storage: what a read after a block write gives, and that a write keeps the canonical form. -/

namespace Sys2Proof.Machine

theorem Memory.read_append (m n : Memory) (a : Nat) :
    Memory.read (m ++ n) a = (Memory.read m a).or (Memory.read n a) := by
  induction m with
  | nil => simp [Memory.read, Memory.unlisted]
  | cons c m ih =>
    simp only [List.cons_append, Memory.read]
    split <;> simp [ih]

theorem Memory.read_eq_none_of_forall_ne {m : Memory} {a : Nat} (h : ∀ c ∈ m, c.1 ≠ a) :
    Memory.read m a = none := by
  induction m with
  | nil => rfl
  | cons c m ih =>
    have hc := h c (by simp)
    simp only [Memory.read, if_neg hc]
    exact ih fun x hx => h x (by simp [hx])

theorem Memory.read_filter (m : Memory) (f : Nat → Bool) (a : Nat) :
    Memory.read (m.filter (fun c => f c.1)) a = if f a = true then Memory.read m a else none := by
  induction m with
  | nil => simp [Memory.read, Memory.unlisted]
  | cons c m ih =>
    by_cases hf : f c.1 = true <;> by_cases hc : c.1 = a <;>
      simp_all [Memory.read]

theorem Memory.mem_cellsFrom {bytes : List Byte} {base : Nat} {c : Host.Cell}
    (h : c ∈ Memory.cellsFrom base bytes) : base ≤ c.1 ∧ c.1 < base + bytes.length := by
  induction bytes generalizing base with
  | nil => simp [Memory.cellsFrom] at h
  | cons b bs ih =>
    simp only [Memory.cellsFrom, List.mem_cons] at h
    rcases h with rfl | h
    · simp
    · have := ih h
      simp only [List.length_cons]
      omega

theorem Memory.read_cellsFrom (bytes : List Byte) (base a : Nat) :
    Memory.read (Memory.cellsFrom base bytes) a = if base ≤ a then bytes[a - base]? else none := by
  induction bytes generalizing base with
  | nil => simp [Memory.cellsFrom, Memory.read, Memory.unlisted]
  | cons b bs ih =>
    simp only [Memory.cellsFrom, Memory.read, ih]
    rcases Nat.lt_trichotomy base a with h | h | h
    · have h1 : a - base = (a - (base + 1)) + 1 := by omega
      rw [if_neg (by omega), if_pos (by omega), if_pos (by omega), h1, List.getElem?_cons_succ]
    · subst h; simp
    · rw [if_neg (by omega), if_neg (by omega), if_neg (by omega)]

/-- A read inside the written block gives the byte written there. -/
theorem Memory.read_writeBlock_inside (m : Memory) {base a : Nat} {bytes : List Byte}
    (h : base ≤ a) (h' : a < base + bytes.length) :
    Memory.read (Memory.writeBlock m base bytes) a = bytes[a - base]? := by
  have hb : a - base < bytes.length := by omega
  rw [Memory.writeBlock, Memory.read_append, Memory.read_append,
    Memory.read_filter m (fun x => decide (x < base)), Memory.read_cellsFrom]
  simp [Nat.not_lt.mpr h, h, hb]

/-- A read outside the written block gives what it gave before. -/
theorem Memory.read_writeBlock_outside (m : Memory) {base a : Nat} {bytes : List Byte}
    (h : a < base ∨ base + bytes.length ≤ a) :
    Memory.read (Memory.writeBlock m base bytes) a = Memory.read m a := by
  rw [Memory.writeBlock, Memory.read_append, Memory.read_append,
    Memory.read_filter m (fun x => decide (x < base)),
    Memory.read_filter m (fun x => decide (base + bytes.length ≤ x)), Memory.read_cellsFrom]
  rcases h with h | h
  · simp [h, Nat.not_le.mpr h, show ¬ base + bytes.length ≤ a by omega]
  · have h1 : bytes[a - base]? = none := List.getElem?_eq_none (by omega)
    simp [h, h1, show ¬ a < base by omega]

theorem Memory.wf_cellsFrom (bytes : List Byte) (base : Nat) : Memory.wf (Memory.cellsFrom base bytes) := by
  induction bytes generalizing base with
  | nil => simp [Memory.cellsFrom]
  | cons b bs ih =>
    refine List.Pairwise.cons (fun c hc => ?_) (ih (base + 1))
    exact (Memory.mem_cellsFrom hc).1

/-- The one write keeps the canonical form. -/
theorem Memory.wf_writeBlock {m : Memory} (hm : Memory.wf m) (base : Nat) (bytes : List Byte) :
    Memory.wf (Memory.writeBlock m base bytes) := by
  refine List.pairwise_append.2 ⟨hm.filter _, List.pairwise_append.2 ⟨Memory.wf_cellsFrom bytes base, hm.filter _, ?_⟩, ?_⟩
  · intro x hx y hy
    have h1 := Memory.mem_cellsFrom hx
    have h2 : base + bytes.length ≤ y.1 := by simpa using (List.mem_filter.1 hy).2
    omega
  · intro x hx y hy
    have h1 : x.1 < base := by simpa using (List.mem_filter.1 hx).2
    rcases List.mem_append.1 hy with hy | hy
    · have h2 := Memory.mem_cellsFrom hy
      omega
    · have h2 : base + bytes.length ≤ y.1 := by simpa using (List.mem_filter.1 hy).2
      omega

/-- A write lists no address but its own and those listed before. -/
theorem Memory.mem_writeBlock {m : Memory} {base : Nat} {bytes : List Byte} {c : Host.Cell}
    (h : c ∈ Memory.writeBlock m base bytes) : c ∈ m ∨ (base ≤ c.1 ∧ c.1 < base + bytes.length) := by
  rcases List.mem_append.1 h with h | h
  · exact .inl (List.mem_filter.1 h).1
  · rcases List.mem_append.1 h with h | h
    · exact .inr (Memory.mem_cellsFrom h)
    · exact .inl (List.mem_filter.1 h).1

/-- In canonical form equal reads mean equal memories. -/
theorem Memory.read_of_mem {m : Memory} (hm : Memory.wf m) {c : Host.Cell} (h : c ∈ m) :
    Memory.read m c.1 = some c.2 := by
  induction m with
  | nil => simp at h
  | cons d m ih =>
    have hd := List.pairwise_cons.1 hm
    rcases List.mem_cons.1 h with rfl | h
    · simp [Memory.read]
    · have := hd.1 c h
      simp only [Memory.read, if_neg (show d.1 ≠ c.1 by omega)]
      exact ih hd.2 h

theorem Memory.wf_empty : Memory.wf Slots.empty.cells := List.Pairwise.nil

/-! ### Storage bytes after a PUSH's write -/

variable (st : Block)

theorem Block.storageByte_slotWrite_inside {s a : Nat} {bytes : List Byte}
    (h : st.slotAddr s 0 ≤ a) (h' : a < st.slotAddr s 0 + bytes.length) :
    (st.slotWrite s bytes).storageByte a = bytes[a - st.slotAddr s 0]'(by omega) := by
  simp only [Block.storageByte, Block.slotWrite_slots]
  rw [Memory.read_writeBlock_inside _ h h', List.getElem?_eq_getElem]
  rfl

theorem Block.storageByte_slotWrite_outside {s a : Nat} {bytes : List Byte}
    (h : a < st.slotAddr s 0 ∨ st.slotAddr s 0 + bytes.length ≤ a) :
    (st.slotWrite s bytes).storageByte a = st.storageByte a := by
  simp only [Block.storageByte, Block.slotWrite_slots]
  rw [Memory.read_writeBlock_outside _ h]

/-- A block's storage bytes are those of its `slots` field. -/
theorem Block.storageByte_congr {st st' : Block} (h : st'.slots = st.slots) (a : Nat) :
    st'.storageByte a = st.storageByte a := by simp [Block.storageByte, h]

theorem Block.slotAddr_congr {st st' : Block} (h : st'.buflen = st.buflen) (s j : Nat) :
    st'.slotAddr s j = st.slotAddr s j := by simp [Block.slotAddr, h]

theorem Block.slotSamples_congr {st st' : Block} (h : st'.buflen = st.buflen) :
    st'.slotSamples = st.slotSamples := by simp [Block.slotSamples, h]

theorem Block.slotSample_congr {st st' : Block} (h : st'.slots = st.slots) (h' : st'.buflen = st.buflen)
    (p : Params) (s i : Nat) : st'.slotSample p s i = st.slotSample p s i := by
  simp [Block.slotSample, Block.storageByte_congr h, Block.slotAddr_congr h']

end Sys2Proof.Machine
end

