-- ==== Sys2Proof/Laws/Drain.lean ====
section
/-! SUPPORT. The ring as a queue of samples (R60): what PUSH, ADVANCE and the drain of PRODUCE do to the pending samples. -/

namespace Sys2Proof.Machine

variable (p : Params) (st : Block)

/-- The samples of one slot, in order. -/
def Block.slotAll (s : Nat) : List Sample := (List.range st.slotSamples).map (st.slotSample p s)

/-- The samples of `u` slots from slot `h` on, round the ring. -/
def Block.ringSamples (h u : Nat) : List Sample :=
  (List.range u).flatMap (fun i => st.slotAll p ((h + i) % st.nSlots.toNat))

theorem Block.pending_eq : st.pending p = (st.ringSamples p st.head st.used).drop st.offset := rfl

@[simp] theorem Block.slotAll_length (s : Nat) : (st.slotAll p s).length = st.slotSamples := by
  simp [Block.slotAll]

@[simp] theorem Block.ringSamples_zero (h : Nat) : st.ringSamples p h 0 = [] := rfl

theorem Block.ringSamples_succ (h u : Nat) :
    st.ringSamples p h (u + 1) = st.slotAll p (h % st.nSlots.toNat) ++ st.ringSamples p (h + 1) u := by
  simp only [Block.ringSamples, List.range_succ_eq_map, List.flatMap_cons, List.flatMap_map, Nat.add_zero]
  congr 2
  funext i
  simp [Nat.add_left_comm, Nat.add_comm]

theorem Block.ringSamples_append (h u : Nat) :
    st.ringSamples p h (u + 1) = st.ringSamples p h u ++ st.slotAll p ((h + u) % st.nSlots.toNat) := by
  simp [Block.ringSamples, List.range_succ, List.flatMap_append]

theorem Block.ringSamples_mod (h u : Nat) :
    st.ringSamples p (h % st.nSlots.toNat) u = st.ringSamples p h u := by
  simp [Block.ringSamples, Nat.mod_add_mod]

@[simp] theorem Block.ringSamples_length (h u : Nat) : (st.ringSamples p h u).length = u * st.slotSamples := by
  induction u generalizing h with
  | zero => simp
  | succ u ih => simp [Block.ringSamples_succ, ih, Nat.succ_mul, Nat.add_comm]

theorem Block.ringSamples_getElem? {h u j : Nat} (hj : j < u * st.slotSamples) :
    (st.ringSamples p h u)[j]? =
      some (st.slotSample p ((h + j / st.slotSamples) % st.nSlots.toNat) (j % st.slotSamples)) := by
  induction u with
  | zero => simp at hj
  | succ u ih =>
    rw [Block.ringSamples_append]
    rcases Nat.lt_or_ge j (u * st.slotSamples) with hlt | hge
    · rw [List.getElem?_append_left (by simpa using hlt), ih hlt]
    · have hj' : j < u * st.slotSamples + st.slotSamples := by rwa [Nat.succ_mul] at hj
      have hd : j / st.slotSamples = u := Nat.div_eq_of_lt_le hge hj
      have hm : j % st.slotSamples = j - u * st.slotSamples := by
        have := Nat.div_add_mod j st.slotSamples
        rw [hd, Nat.mul_comm] at this
        omega
      rw [List.getElem?_append_right (by simpa using hge), Block.ringSamples_length, hd, hm]
      simp [Block.slotAll, List.getElem?_range (show j - u * st.slotSamples < st.slotSamples by omega)]

/-- Which sample of which slot is the `k`-th unconsumed one (R143, R60). -/
theorem Block.pending_getElem? {k : Nat} (hk : k < st.available) :
    (st.pending p)[k]? =
      some (st.slotSample p ((st.head + (st.offset + k) / st.slotSamples) % st.nSlots.toNat)
        ((st.offset + k) % st.slotSamples)) := by
  rw [Block.pending_eq, List.getElem?_drop]
  exact Block.ringSamples_getElem? p st (by simp only [Block.available] at hk; omega)

@[simp] theorem Block.pending_length : (st.pending p).length = st.available := by
  simp [Block.pending_eq, Block.available]

/-- The slots' samples depend on the storage and the geometry alone. -/
theorem Block.ringSamples_congr {st st' : Block} (hs : st'.slots = st.slots) (hb : st'.buflen = st.buflen)
    (hn : st'.nSlots = st.nSlots) (h u : Nat) : st'.ringSamples p h u = st.ringSamples p h u := by
  have : st'.slotAll p = st.slotAll p := by
    funext s
    simp only [Block.slotAll, Block.slotSamples_congr hb]
    congr 1
    funext i
    exact Block.slotSample_congr hs hb p s i
  simp [Block.ringSamples, this, hn]

theorem Block.pending_congr {st st' : Block} (hs : st'.slots = st.slots) (hb : st'.buflen = st.buflen)
    (hn : st'.nSlots = st.nSlots) (hh : st'.head = st.head) (hu : st'.used = st.used)
    (ho : st'.offset = st.offset) : st'.pending p = st.pending p := by
  rw [Block.pending_eq, Block.pending_eq, Block.ringSamples_congr p hs hb hn, hh, hu, ho]

theorem Block.pending_of_used_zero {st : Block} (h : st.used = 0) : st.pending p = [] := by
  simp [Block.pending_eq, h]

/-- The pending samples are the rest of the oldest slot and then the next slots. -/
theorem Block.pending_of_used_succ {st : Block} {u : Nat} (hu : st.used = u + 1)
    (hh : st.head < st.nSlots.toNat) (ho : st.offset ≤ st.slotSamples) :
    st.pending p = (st.slotAll p st.head).drop st.offset ++ st.ringSamples p (st.head + 1) u := by
  rw [Block.pending_eq, hu, Block.ringSamples_succ, Nat.mod_eq_of_lt hh, List.drop_append]
  simp [Nat.sub_eq_zero_of_le ho]

/-- ADVANCE leaves the slots after the oldest. -/
theorem Block.pending_advance {st : Block} {u : Nat} (hu : st.used = u + 1) :
    st.advance.pending p = st.ringSamples p (st.head + 1) u := by
  rw [Block.pending_eq, Block.ringSamples_congr p (st := st) (st' := st.advance) rfl rfl rfl]
  simp [hu, Block.ringSamples_mod]

/-- What one turn of the drain emits is the next `take` samples of the oldest slot. -/
theorem Block.emit_eq {st : Block} {take : Nat} (h : st.offset + take ≤ st.slotSamples) :
    st.emit p take = ((st.slotAll p st.head).drop st.offset).take take := by
  apply List.ext_getElem
  · simp [Block.emit]; omega
  · intro i h1 h2
    simp [Block.emit, Block.slotAll, Block.view]

/-- The drain emits the oldest pending samples in order and leaves the others (R143, R60). -/
theorem drainLoop_pending (fuel rem : Nat) (st : Block) (hf : st.used ≤ fuel)
    (hh : st.head < st.nSlots.toNat) (ho : st.offset < st.slotSamples) :
    (drainLoop p fuel rem st).2 = (st.pending p).take rem ∧
    (drainLoop p fuel rem st).1.pending p = (st.pending p).drop rem := by
  induction fuel generalizing rem st with
  | zero =>
    have hu : st.used = 0 := by omega
    simp [drainLoop, Block.pending_of_used_zero p hu]
  | succ fuel ih =>
    rw [drainLoop]
    split
    · next h =>
      rcases h with h | h
      · simp [h]
      · simp [Block.pending_of_used_zero p h]
    · next h =>
      obtain ⟨hr, hu⟩ := not_or.1 h
      obtain ⟨u, hu⟩ := Nat.exists_eq_succ_of_ne_zero hu
      have hp := Block.pending_of_used_succ p hu hh ho.le
      have hA : ((st.slotAll p st.head).drop st.offset).length = st.slotSamples - st.offset := by simp
      rcases Nat.lt_or_ge rem (st.slotSamples - st.offset) with hlt | hge
      · have ht : min rem (st.slotSamples - st.offset) = rem := by omega
        have hne : ¬ st.offset + rem = st.slotSamples := by omega
        have hz : ∀ st', drainLoop p fuel 0 st' = (st', []) := by
          intro st'; cases fuel <;> simp [drainLoop]
        simp only [ht, Nat.sub_self, hz, Block.moveCursor, if_neg hne, List.append_nil]
        constructor
        · rw [Block.emit_eq p (by omega), hp, List.take_append_of_le_length (by omega)]
        · rw [Block.pending_eq, Block.pending_eq, List.drop_drop,
            Block.ringSamples_congr p (st := st) (st' := { st with offset := st.offset + rem }) rfl rfl rfl]
      · have ht : min rem (st.slotSamples - st.offset) = st.slotSamples - st.offset := by omega
        have he : st.offset + (st.slotSamples - st.offset) = st.slotSamples := by omega
        have hN : 0 < st.nSlots.toNat := by omega
        obtain ⟨i1, i2⟩ := ih (rem - (st.slotSamples - st.offset)) st.advance (by simp; omega)
          (by simpa using Nat.mod_lt _ hN) (by simpa [Block.slotSamples] using Nat.lt_of_le_of_lt (Nat.zero_le _) ho)
        simp only [ht, Block.moveCursor, if_pos he]
        rw [i1, i2, Block.pending_advance p hu, Block.emit_eq p (by omega), hp]
        constructor
        · rw [List.take_append, hA, List.take_of_length_le (l := List.drop _ _) (by omega),
            List.take_of_length_le (l := List.drop _ _) (by omega)]
        · rw [List.drop_append, hA,
            List.drop_eq_nil_of_le (as := (st.slotAll p st.head).drop st.offset) (by omega), List.nil_append]

/-- The drain changes the cursor's three fields and nothing else. -/
theorem drainLoop_frame (fuel rem : Nat) (st : Block) :
    (drainLoop p fuel rem st).1 =
      { st with
        head := (drainLoop p fuel rem st).1.head
        used := (drainLoop p fuel rem st).1.used
        offset := (drainLoop p fuel rem st).1.offset } := by
  induction fuel generalizing rem st with
  | zero => rfl
  | succ fuel ih =>
    rw [drainLoop]
    split
    · rfl
    · have h := ih (rem - min rem (st.slotSamples - st.offset))
        (st.moveCursor (min rem (st.slotSamples - st.offset)))
      dsimp only
      rw [h]
      unfold Block.moveCursor
      split <;> rfl

/-- The drain leaves everything but the cursor (R143). -/
theorem Block.drain_frame (st : Block) (p : Params) (want : Operand) :
    (st.drain p want).1 =
      { st with
        head := (st.drain p want).1.head
        used := (st.drain p want).1.used
        offset := (st.drain p want).1.offset } :=
  drainLoop_frame p st.used want.toNat st

/-- Where the cursor stands after a drain of `n` samples: whole slots are freed (R143, R145). -/
theorem drainLoop_cursor (fuel rem : Nat) (st : Block) (hf : st.used ≤ fuel) (hu : 0 < st.used)
    (hh : st.head < st.nSlots.toNat) (ho : st.offset < st.slotSamples) :
    let n := min rem (st.used * st.slotSamples - st.offset)
    (drainLoop p fuel rem st).1 =
      { st with
        head := (st.head + (st.offset + n) / st.slotSamples) % st.nSlots.toNat
        used := st.used - (st.offset + n) / st.slotSamples
        offset := (st.offset + n) % st.slotSamples } := by
  induction fuel generalizing rem st with
  | zero => omega
  | succ fuel ih =>
    intro n
    have hS : 0 < st.slotSamples := by omega
    rw [drainLoop]
    split
    · next h =>
      have hr : rem = 0 := by omega
      simp [n, hr, Nat.div_eq_of_lt ho, Nat.mod_eq_of_lt ho, Nat.mod_eq_of_lt hh]
    · next h =>
      obtain ⟨hr, -⟩ := not_or.1 h
      have hmul : st.slotSamples ≤ st.used * st.slotSamples := Nat.le_mul_of_pos_left _ hu
      rcases Nat.lt_or_ge rem (st.slotSamples - st.offset) with hlt | hge
      · have ht : min rem (st.slotSamples - st.offset) = rem := by omega
        have hne : ¬ st.offset + rem = st.slotSamples := by omega
        have hn : n = rem := by omega
        have hz : ∀ st', drainLoop p fuel 0 st' = (st', []) := by
          intro st'; cases fuel <;> simp [drainLoop]
        have hlt' : st.offset + rem < st.slotSamples := by omega
        simp only [ht, Nat.sub_self, hz, Block.moveCursor, if_neg hne, hn]
        simp [Nat.div_eq_of_lt hlt', Nat.mod_eq_of_lt hlt', Nat.mod_eq_of_lt hh]
      · have ht : min rem (st.slotSamples - st.offset) = st.slotSamples - st.offset := by omega
        have he : st.offset + (st.slotSamples - st.offset) = st.slotSamples := by omega
        have hN : 0 < st.nSlots.toNat := by omega
        simp only [ht, Block.moveCursor, if_pos he]
        rcases Nat.eq_or_lt_of_le hu with h1 | h1
        · have hz : ∀ r, drainLoop p fuel r st.advance = (st.advance, []) := by
            intro r; cases fuel <;> simp [drainLoop, ← h1]
          have hn : st.offset + n = st.slotSamples := by simp only [n, ← h1]; omega
          rw [hz, hn]
          simp [Block.advance, Nat.div_self hS]
        · have hsub : (st.used - 1) * st.slotSamples = st.used * st.slotSamples - st.slotSamples := by
            rw [Nat.sub_mul, Nat.one_mul]
          have := ih (rem - (st.slotSamples - st.offset)) st.advance (by simp; omega) (by simp; omega)
            (by simpa using Nat.mod_lt _ hN) (by simpa [Block.slotSamples] using hS)
          simp only [Block.advance_used, Block.advance_offset, Block.advance_head, Block.advance_nSlots,
            Block.slotSamples_congr (st := st) (st' := st.advance) rfl, Nat.sub_zero, Nat.zero_add, hsub] at this
          rw [this]
          have hsum : st.offset + n = st.slotSamples +
              min (rem - (st.slotSamples - st.offset)) (st.used * st.slotSamples - st.slotSamples) := by
            simp only [n]; omega
          rw [hsum, Nat.add_div_left _ hS, Nat.add_mod_left]
          simp only [Block.advance, Block.mk.injEq, true_and, and_true, Nat.mod_add_mod]
          constructor
          · congr 1; omega
          · omega

end Sys2Proof.Machine
end

