-- ==== Sys2Proof/Laws/Converter.lean ====
section
/-! SUPPORT. The samples of a raw block one by one (R52, R165), and what a PUSH does to the pending samples (R60, R122,
R123). -/

namespace Sys2Proof.Machine

variable (p : Params)

/-- Four bytes of a block make one sample, and the rest of the block follows. -/
theorem blockSamples_length : ∀ bytes : List Byte, (blockSamples p bytes).length = bytes.length / 4
  | b0 :: b1 :: b2 :: b3 :: rest => by
    simp only [blockSamples, List.length_cons, blockSamples_length rest]
    omega
  | [] => rfl
  | [_] => by simp [blockSamples]
  | [_, _] => by simp [blockSamples]
  | [_, _, _] => by simp [blockSamples]

/-- Sample `i` of a block is made of its own four bytes. -/
theorem blockSamples_getElem? {b0 b1 b2 b3 : Byte} :
    ∀ (bytes : List Byte) (i : Nat), bytes[4 * i]? = some b0 → bytes[4 * i + 1]? = some b1 →
      bytes[4 * i + 2]? = some b2 → bytes[4 * i + 3]? = some b3 →
      (blockSamples p bytes)[i]? = some (convert p b0 b1 b2 b3)
  | a0 :: a1 :: a2 :: a3 :: rest, 0, h0, h1, h2, h3 => by
    simp at h0 h1 h2 h3
    simp [blockSamples, h0, h1, h2, h3]
  | a0 :: a1 :: a2 :: a3 :: rest, i + 1, h0, h1, h2, h3 => by
    rw [show 4 * (i + 1) = 4 * i + 4 by omega] at h0 h1 h2 h3
    rw [show 4 * i + 4 + 1 = 4 * i + 1 + 4 by omega] at h1
    rw [show 4 * i + 4 + 2 = 4 * i + 2 + 4 by omega] at h2
    rw [show 4 * i + 4 + 3 = 4 * i + 3 + 4 by omega] at h3
    simp only [List.getElem?_cons_succ] at h0 h1 h2 h3
    simpa [blockSamples] using blockSamples_getElem? rest i h0 h1 h2 h3
  | [], i, h0, _, _, _ => by simp at h0
  | [_], i, _, h1, _, _ => by simp at h1
  | [_, _], i, _, _, h2, _ => by simp at h2
  | [_, _, _], i, _, _, _, h3 => by simp at h3

variable (st : Block)

/-- A write of slot `t` leaves the bytes of every other slot. -/
theorem Block.storageByte_slotWrite_other {s t j : Nat} {bytes : List Byte} (hst : s ≠ t)
    (hj : j < st.buflen.toNat) (hl : bytes.length = st.buflen.toNat) :
    (st.slotWrite t bytes).storageByte (st.slotAddr s j) = st.storageByte (st.slotAddr s j) := by
  apply Block.storageByte_slotWrite_outside
  simp only [Block.slotAddr, hl, Nat.add_zero]
  rcases Nat.lt_or_gt_of_ne hst with h | h
  · left
    have : (s + 1) * st.buflen.toNat ≤ t * st.buflen.toNat := Nat.mul_le_mul_right _ h
    rw [Nat.succ_mul] at this
    omega
  · right
    have : (t + 1) * st.buflen.toNat ≤ s * st.buflen.toNat := Nat.mul_le_mul_right _ h
    rw [Nat.succ_mul] at this
    omega

/-- A write of slot `t` is read back byte by byte. -/
theorem Block.storageByte_slotWrite_self {t j : Nat} {bytes : List Byte} {b : Byte} (h : bytes[j]? = some b) :
    (st.slotWrite t bytes).storageByte (st.slotAddr t j) = b := by
  obtain ⟨hj, hb⟩ := List.getElem?_eq_some_iff.1 h
  have hadd : st.slotAddr t j = st.slotAddr t 0 + j := by simp [Block.slotAddr]
  rw [Block.storageByte_slotWrite_inside st (by omega) (by omega)]
  simp [hadd, hb]

theorem Block.slotAll_slotWrite_other {s t : Nat} {bytes : List Byte} (hst : s ≠ t)
    (hl : bytes.length = st.buflen.toNat) : (st.slotWrite t bytes).slotAll p s = st.slotAll p s := by
  simp only [Block.slotAll, Block.slotSamples_congr (st := st) (st' := st.slotWrite t bytes) rfl]
  apply List.map_congr_left
  intro i hi
  have hi : i < st.slotSamples := by simpa using hi
  have hB : 4 * i + 3 < st.buflen.toNat := by simp only [Block.slotSamples] at hi; omega
  simp only [Block.slotSample, Block.slotAddr_congr (st := st) (st' := st.slotWrite t bytes) rfl]
  rw [Block.storageByte_slotWrite_other st hst (by omega) hl, Block.storageByte_slotWrite_other st hst (by omega) hl,
    Block.storageByte_slotWrite_other st hst (by omega) hl, Block.storageByte_slotWrite_other st hst hB hl]

theorem Block.slotAll_slotWrite_self (t : Nat) {bytes : List Byte} (hl : bytes.length = st.buflen.toNat) :
    (st.slotWrite t bytes).slotAll p t = blockSamples p bytes := by
  apply List.ext_getElem?
  intro i
  rcases Nat.lt_or_ge i st.slotSamples with hi | hi
  · have hB : 4 * i + 3 < bytes.length := by simp only [Block.slotSamples] at hi; omega
    have hg : ∀ k, (hk : k ≤ 3) → bytes[4 * i + k]? = some (bytes[4 * i + k]'(by omega)) := by
      intro k hk
      exact List.getElem?_eq_getElem _
    rw [blockSamples_getElem? p bytes i (hg 0 (by omega)) (hg 1 (by omega)) (hg 2 (by omega)) (hg 3 (by omega))]
    have hi' : i < (st.slotWrite t bytes).slotSamples := hi
    simp only [Block.slotAll, List.getElem?_map, List.getElem?_range hi', Option.map_some, Block.slotSample,
      Block.slotAddr_congr (st := st) (st' := st.slotWrite t bytes) rfl, Option.some.injEq]
    rw [Block.storageByte_slotWrite_self st (hg 1 (by omega)), Block.storageByte_slotWrite_self st (hg 2 (by omega)),
      Block.storageByte_slotWrite_self st (hg 3 (by omega)),
      Block.storageByte_slotWrite_self st (j := 4 * i) (hg 0 (by omega))]
  · rw [List.getElem?_eq_none, List.getElem?_eq_none]
    · rw [blockSamples_length, hl]; exact hi
    · rw [Block.slotAll_length]; exact hi

/-- A write outside a stretch of the ring leaves its samples. -/
theorem Block.ringSamples_slotWrite {t h u : Nat} {bytes : List Byte} (hl : bytes.length = st.buflen.toNat)
    (ht : ∀ i, i < u → (h + i) % st.nSlots.toNat ≠ t) :
    (st.slotWrite t bytes).ringSamples p h u = st.ringSamples p h u := by
  induction u with
  | zero => rw [Block.ringSamples_zero, Block.ringSamples_zero]
  | succ u ih =>
    rw [Block.ringSamples_append, Block.ringSamples_append, Block.slotWrite_nSlots,
      Block.slotAll_slotWrite_other p st (ht u (by omega)) hl, ih fun i hi => ht i (by omega)]

/-- Two positions of the ring less than N apart are different slots. -/
theorem ring_positions_differ {n h i j : Nat} (hij : i < j) (hj : j < i + n) : (h + i) % n ≠ (h + j) % n := by
  intro heq
  have hmod : Nat.ModEq n i j := Nat.ModEq.add_left_cancel' h heq
  have hd := (Nat.modEq_iff_dvd' hij.le).1 hmod
  have := Nat.le_of_dvd (by omega) hd
  omega

/-- PUSH is the append of a drop-oldest queue (R60, R122, R123). -/
theorem Block.pending_push {bytes : List Byte} (hl : bytes.length = st.buflen.toNat)
    (hh : st.head < st.nSlots.toNat) (hu : st.used ≤ st.nSlots.toNat) (ho : st.offset < st.slotSamples)
    (hc : st.used = 0 → st.offset = 0) :
    (st.push bytes).pending p =
      (if st.used = st.nSlots.toNat then (st.pending p).drop (st.slotSamples - st.offset) else st.pending p) ++
        blockSamples p bytes := by
  by_cases hfull : st.used = st.nSlots.toNat
  · obtain ⟨u, hu'⟩ := Nat.exists_eq_succ_of_ne_zero (show st.used ≠ 0 by omega)
    have htail : st.tail = st.head := by
      simp [Block.tail, hfull, Nat.mod_eq_of_lt hh]
    have hpush : st.push bytes = (st.slotWrite st.head bytes).dropOldest := by
      simp [Block.push, hfull, htail]
    have hlast : (st.head + 1 + u) % st.nSlots.toNat = st.head := by
      have : st.head + 1 + u = st.head + st.nSlots.toNat := by omega
      rw [this, Nat.add_mod_right, Nat.mod_eq_of_lt hh]
    have hdrop : (st.pending p).drop (st.slotSamples - st.offset) = st.ringSamples p (st.head + 1) u := by
      rw [Block.pending_of_used_succ p hu' hh ho.le, List.drop_append,
        List.drop_eq_nil_of_le (as := (st.slotAll p st.head).drop st.offset) (by simp)]
      simp
    have hother : ∀ i, i < u → (st.head + 1 + i) % st.nSlots.toNat ≠ st.head := by
      intro i hi heq
      have := ring_positions_differ (n := st.nSlots.toNat) (h := st.head) (i := 0) (j := 1 + i) (by omega) (by omega)
      rw [Nat.add_zero, Nat.mod_eq_of_lt hh, ← Nat.add_assoc] at this
      exact this heq.symm
    rw [if_pos hfull, hdrop, hpush, Block.pending_eq,
      Block.ringSamples_congr p (st := st.slotWrite st.head bytes)
        (st' := (st.slotWrite st.head bytes).dropOldest) rfl rfl rfl]
    simp only [Block.dropOldest_head, Block.dropOldest_used, Block.dropOldest_offset, Block.slotWrite_head,
      Block.slotWrite_used, Block.slotWrite_nSlots, List.drop_zero, hu']
    have := Block.ringSamples_mod p (st.slotWrite st.head bytes) (st.head + 1) (u + 1)
    rw [Block.slotWrite_nSlots] at this
    rw [Nat.succ_eq_add_one, this, Block.ringSamples_append, Block.slotWrite_nSlots, hlast,
      Block.slotAll_slotWrite_self p st _ hl, Block.ringSamples_slotWrite p st hl hother]
  · have hpush : st.push bytes = { st.slotWrite st.tail bytes with used := st.used + 1 } := by
      simp [Block.push, hfull]
    have hother : ∀ i, i < st.used → (st.head + i) % st.nSlots.toNat ≠ st.tail := fun i hi =>
      ring_positions_differ hi (by omega)
    rw [if_neg hfull, hpush, Block.pending_eq,
      Block.ringSamples_congr p (st := st.slotWrite st.tail bytes)
        (st' := { st.slotWrite st.tail bytes with used := st.used + 1 }) rfl rfl rfl]
    simp only [Block.slotWrite_head, Block.slotWrite_offset]
    rw [Block.ringSamples_append, Block.slotWrite_nSlots,
      show (st.head + st.used) % st.nSlots.toNat = st.tail from rfl,
      Block.slotAll_slotWrite_self p st _ hl, Block.ringSamples_slotWrite p st hl hother, List.drop_append,
      Block.pending_eq]
    congr 1
    have : st.offset ≤ st.used * st.slotSamples := by
      rcases Nat.eq_zero_or_pos st.used with h | h
      · simp [hc h]
      · exact ho.le.trans (Nat.le_mul_of_pos_left _ h)
    simp [Nat.sub_eq_zero_of_le this]

end Sys2Proof.Machine
end

