-- ==== Sys2Proof/Laws/Decode.lean ====
section
/-! SUPPORT. The fields of a word, the codes of the opcodes, and what decoding answers. -/

namespace Sys2Proof

@[simp] theorem opField_packWord (op : Opcode) (imm : Operand) : opField (packWord op imm) = op.code := by
  ext i hi
  have h1 : 28 + i < 32 := by omega
  simp only [opField, packWord, BitVec.getElem_extractLsb', BitVec.getLsbD_append]
  simp [BitVec.getLsbD_eq_getElem hi]

@[simp] theorem immField_packWord (op : Opcode) (imm : Operand) : immField (packWord op imm) = imm := by
  ext i hi
  simp only [immField, packWord, BitVec.getElem_extractLsb', BitVec.getLsbD_append]
  simp [hi]

@[simp] theorem opcodeOf_code (op : Opcode) : opcodeOf op.code = some op := by cases op <;> rfl

theorem code_of_opcodeOf {x : BitVec 4} {op : Opcode} (h : opcodeOf x = some op) : op.code = x := by
  revert x op; decide

/-- A word is its two fields. -/
theorem opField_append_immField (w : Word) : (opField w ++ immField w : Word) = w := by
  simp only [opField, immField]
  ext i hi
  simp only [BitVec.getElem_append, BitVec.getElem_extractLsb']
  split
  · simp [BitVec.getLsbD_eq_getElem hi]
  · have : 28 + (i - 28) = i := by omega
    simp [this, BitVec.getLsbD_eq_getElem hi]

theorem packWord_fields {w : Word} {op : Opcode} (h : opcodeOf (opField w) = some op) :
    packWord op (immField w) = w := by
  rw [packWord, code_of_opcodeOf h, opField_append_immField]

@[simp] theorem opField_encode (i : Instr) : opField (encode i) = i.opcode.code := opField_packWord _ _
@[simp] theorem immField_encode (i : Instr) : immField (encode i) = i.operand := immField_packWord _ _

@[simp] theorem decodeOperand_instr (i : Instr) : decodeOperand i.opcode i.operand = .instr i := by
  cases i <;> simp [decodeOperand, Instr.opcode, Instr.operand, Opcode.operandMustBeZero, Opcode.withOperand]

/-- What decoding an operand answers with a command says of both. -/
theorem opcode_operand_of_decodeOperand {op : Opcode} {imm : Operand} {i : Instr}
    (h : decodeOperand op imm = .instr i) : i.opcode = op ∧ i.operand = imm := by
  unfold decodeOperand at h
  split at h
  · cases h
  · next hz =>
    cases h
    cases op <;> simp_all [Opcode.withOperand, Instr.opcode, Instr.operand, Opcode.operandMustBeZero]

/-- `decodeOn` is the port check and `decode`. -/
theorem decodeOn_eq (p : Port) (w : Word) :
    decodeOn p w =
      match opcodeOf (opField w) with
      | none => .reject .reservedOpcode
      | some op => if op.port = p then decode w else .reject .wrongPort := by
  simp only [decodeOn, decode]
  cases opcodeOf (opField w) <;> rfl

/-- A word that decodes on a port is the encoding of its command, which that port accepts. -/
theorem encode_of_decodeOn {p : Port} {w : Word} {i : Instr} (h : decodeOn p w = .instr i) :
    encode i = w ∧ i.port = p := by
  unfold decodeOn at h
  split at h
  · cases h
  · next op hop =>
    split at h
    · next hp =>
      obtain ⟨h1, h2⟩ := opcode_operand_of_decodeOperand h
      exact ⟨by rw [encode, h1, h2, packWord_fields hop], by rw [Instr.port, h1, hp]⟩
    · cases h

theorem decodeOn_encode (i : Instr) : decodeOn i.port (encode i) = .instr i := by
  simp [decodeOn, Instr.port]

/-- The one spelling of a word with an operand. -/
theorem encode_deliver (len : Operand) : encode (.deliver len) = 0x8#4 ++ len := rfl
theorem encode_drvExit (x : Operand) : encode (.drvExit x) = 0x9#4 ++ x := rfl
theorem encode_produce (want : Operand) : encode (.produce want) = 0xA#4 ++ want := rfl
theorem encode_readReg (sel : Operand) : encode (.readReg sel) = 0x7#4 ++ sel := rfl

end Sys2Proof
end

