-- ==== Sys2Proof/Laws/Flags.lean ====
section
/-! SUPPORT. The bits of one flag and of the STATE register (R40). -/

namespace Sys2Proof.Machine

/-- A flag is its own bit and no other. -/
theorem flagAt_getLsbD (k : Nat) (b : Bool) (i : Nat) (hk : k < 32) :
    (flagAt k b).getLsbD i = (decide (i = k) && b) := by
  cases b
  · simp [flagAt]
  · simp only [flagAt, if_pos, BitVec.getLsbD_shiftLeft, BitVec.getLsbD_one, Bool.and_true]
    rw [Bool.eq_iff_iff]
    simp only [Bool.and_eq_true, decide_eq_true_eq, Bool.not_eq_true', decide_eq_false_iff_not]
    omega

theorem Block.stateWord_getLsbD (st : Block) (i : Nat) :
    st.stateWord.getLsbD i =
      ((decide (i = 0) && decide (st.life = .opened)) || (decide (i = 1) && st.running) ||
       (decide (i = 2) && st.loopActive) || (decide (i = 3) && st.cancelReq) || (decide (i = 4) && st.primed) ||
       (decide (i = 5) && st.fault) || (decide (i = 6) && st.isFull) || (decide (i = 7) && st.isEmpty)) := by
  simp [Block.stateWord, flagAt_getLsbD]

end Sys2Proof.Machine
end

