-- ==== Sys2Proof/Laws/Step.lean ====
section
/-! SUPPORT. Inversion: what answering and raising a fault do, all that a command can do (`ExecCase`), and all that a
step can do (`StepCase`). Later proofs cite these and unfold neither `exec` nor `step`. -/

namespace Sys2Proof.Machine

theorem answered_respond (s : State) (p : Port) (r : Response) (b : Block) : Answered s (s.respond p r b) p r where
  response := by simp
  taken := by simp
  otherPorts q hq := by simp [hq.symm]
  sameParams := rfl
  sameChoices := by simp

theorem faulted_raiseFault (s : State) (p : Port) (c : Cause) (w : Word) : Faulted s (s.raiseFault p c w) p c w where
  answered := answered_respond s p _ _
  recorded h := by simp [h]
  kept h := by simp [h]
  nothingElse := by
    simp only [State.raiseFault_st, Block.recordFault]
    split <;> rfl

theorem fillPayload_length (draw n j : Nat) (bytes : List Byte) : (fillPayload draw n j bytes).length = n := by
  induction n generalizing j bytes with
  | zero => rfl
  | succ n ih => cases bytes <;> simp [fillPayload, ih]

/-- A payload of the right length is delivered as it is (R79). -/
theorem fillPayload_eq (draw j : Nat) (bytes : List Byte) : fillPayload draw bytes.length j bytes = bytes := by
  induction bytes generalizing j with
  | nil => rfl
  | cons b bs ih => simp [fillPayload, ih]

@[simp] theorem State.deliveredPayload_length (s : State) (len : Operand) :
    (s.deliveredPayload len).length = len.toNat := by
  unfold State.deliveredPayload
  split <;> exact fillPayload_length _ _ _ _

theorem State.deliveredPayload_eq {s : State} {c : Command} {cs : List Command} {len : Operand}
    (h : s.io.prodCmds = c :: cs) (hl : c.payload.length = len.toNat) : s.deliveredPayload len = c.payload := by
  simp only [State.deliveredPayload, h, ← hl, fillPayload_eq]

/-- All that a command can do when it answers a next state. -/
inductive ExecCase (s : State) : Instr → State → Prop where
  | cfgBuffers (n : Operand) :
    ExecCase s (.cfgBuffers n) (s.respond .host (Response.ok 0) { s.st with cfgBuffers := legalBuffers s.params n })
  | cfgBuflen (b : Operand) :
    ExecCase s (.cfgBuflen b) (s.respond .host (Response.ok 0) { s.st with cfgBuflen := legalBuflen s.params b })
  | alreadyOpen (hl : s.st.life = .opened) :
    ExecCase s .openDevice (s.raiseFault .host .alreadyOpen (encode .openDevice))
  | opened (hl : s.st.life = .closed) (ho : s.opens = true) :
    ExecCase s .openDevice (s.useOpenAnswer.respond .host (Response.ok 0) (s.st.allocate s.io.draws))
  | openFailed (hl : s.st.life = .closed) (ho : s.opens = false) :
    ExecCase s .openDevice (s.useOpenAnswer.respond .host (Response.ok 1) s.st)
  | startClosed (hl : s.st.life = .closed) : ExecCase s .start (s.raiseFault .host .notOpen (encode .start))
  | startBusy (hl : s.st.life = .opened) (ha : s.st.loopActive = true) :
    ExecCase s .start (s.raiseFault .host .busy (encode .start))
  | started (hl : s.st.life = .opened) (ha : s.st.loopActive = false) :
    ExecCase s .start (s.respond .host (Response.ok 0) (s.st.beginStream s.params.skipK))
  | stopIdle (h : s.st.life = .closed ∨ s.st.loopActive = false) :
    ExecCase s .stop (s.respond .host (Response.ok 0) s.st)
  | stopHolds (hl : s.st.life = .opened) (ha : s.st.loopActive = true) :
    ExecCase s .stop { s with st := s.st.cancel .stopJoin }
  | closeIdle (hl : s.st.life = .closed) : ExecCase s .close (s.respond .host (Response.ok 0) s.st)
  | closeHolds (hl : s.st.life = .opened) (ha : s.st.loopActive = true) :
    ExecCase s .close { s with st := s.st.cancel .closeJoin }
  | closeFrees (hl : s.st.life = .opened) (ha : s.st.loopActive = false) :
    ExecCase s .close (s.respond .host (Response.ok 0) s.st.free)
  | readReg (sel : Operand) (v : Word) (hr : s.st.register sel = some v) :
    ExecCase s (.readReg sel) (s.respond .host (Response.ok v) s.st)
  | badReg (sel : Operand) (hr : s.st.register sel = none) :
    ExecCase s (.readReg sel) (s.raiseFault .host .badReg (encode (.readReg sel)))
  | deliverNoLoop (len : Operand) (ha : s.st.loopActive = false) :
    ExecCase s (.deliver len) (s.raiseFault .producer .drvProtocol (encode (.deliver len)))
  | deliverBadLength (len : Operand) (ha : s.st.loopActive = true) (hb : len ≠ s.st.buflen) :
    ExecCase s (.deliver len) (s.raiseFault .producer .badLength (encode (.deliver len)))
  | deliverCancelled (len : Operand) (ha : s.st.loopActive = true) (hb : len = s.st.buflen)
      (hr : s.st.running = false) : ExecCase s (.deliver len) (s.respond .producer (Response.ok 0) s.st)
  | deliverSkipped (len : Operand) (ha : s.st.loopActive = true) (hb : len = s.st.buflen)
      (hr : s.st.running = true) (hk : 0 < s.st.skipRem) :
    ExecCase s (.deliver len)
      (s.respond .producer (Response.ok 0) { s.st with skipRem := s.st.skipRem - 1 })
  | delivered (len : Operand) (ha : s.st.loopActive = true) (hb : len = s.st.buflen)
      (hr : s.st.running = true) (hk : s.st.skipRem = 0) (ht : s.st.tail < s.st.nSlots.toNat) :
    ExecCase s (.deliver len) (s.respond .producer (Response.ok 0) (s.st.push (s.deliveredPayload len)))
  | exitNoLoop (x : Operand) (ha : s.st.loopActive = false) :
    ExecCase s (.drvExit x) (s.raiseFault .producer .drvProtocol (encode (.drvExit x)))
  | exited (x : Operand) (ha : s.st.loopActive = true) :
    ExecCase s (.drvExit x) (s.respond .producer (Response.ok 0) (s.st.loopExit x))
  | produceHolds (want : Operand) (hr : s.st.ready s.params = false) :
    ExecCase s (.produce want) (s.withConsWait (.produce want))
  | produceClosed (want : Operand) (hr : s.st.ready s.params = true) (hl : s.st.life = .closed) :
    ExecCase s (.produce want)
      ((s.withConsWait .none).raiseFault .consumer .notOpen (encode (.produce want)))
  | endOfStream (want : Operand) (hr : s.st.ready s.params = true) (hl : s.st.life = .opened)
      (hu : s.st.used = 0) (hn : s.st.running = false) :
    ExecCase s (.produce want)
      ((s.withConsWait .none).respond .consumer (Response.ok eosValue) { s.st with consWait := .none })
  | drained (want : Operand) (hr : s.st.ready s.params = true) (hl : s.st.life = .opened)
      (he : ¬ (s.st.used = 0 ∧ s.st.running = false)) (hv : s.st.viewExists want = true) :
    ExecCase s (.produce want)
      ((s.withConsWait .none).respond .consumer
        (Response.samples ((({ s.st with consWait := .none } : Block).prime s.params).drain s.params want).2)
        ((({ s.st with consWait := .none } : Block).prime s.params).drain s.params want).1)

theorem exec_cases {i : Instr} {s t : State} (h : exec i s = .next t) : ExecCase s i t := by
  cases i with
  | cfgBuffers n => cases h; exact .cfgBuffers n
  | cfgBuflen b => cases h; exact .cfgBuflen b
  | openDevice =>
    simp only [exec, execOpenDevice] at h
    split at h
    · next hl => cases h; exact .alreadyOpen hl
    · next hl =>
      cases h
      rcases ho : s.opens with _ | _
      · simpa [State.openClosed, ho] using ExecCase.openFailed hl ho
      · simpa [State.openClosed, ho] using ExecCase.opened hl ho
  | start =>
    simp only [exec, execStart] at h
    split at h
    · next hl => cases h; exact .startClosed hl
    · next hl =>
      split at h
      · next ha => cases h; exact .startBusy hl ha
      · next ha => cases h; exact .started hl (by simpa using ha)
  | stop =>
    simp only [exec, execStop] at h
    split at h
    · next hs => cases h; exact .stopIdle hs
    · next hs =>
      cases h
      obtain ⟨h1, h2⟩ := not_or.1 hs
      refine .stopHolds ?_ (by simpa using h2)
      cases hl : s.st.life
      · exact absurd hl h1
      · rfl
  | close =>
    simp only [exec, execClose] at h
    split at h
    · next hl => cases h; exact .closeIdle hl
    · next hl =>
      split at h
      · next ha => cases h; exact .closeHolds hl ha
      · next ha => cases h; exact .closeFrees hl (by simpa using ha)
  | readReg sel =>
    simp only [exec, execReadReg] at h
    split at h
    · next v hr => cases h; exact .readReg sel v hr
    · next hr => cases h; exact .badReg sel hr
  | deliver len =>
    simp only [exec, execDeliver] at h
    split at h
    · next ha => cases h; exact .deliverNoLoop len ha
    · next ha =>
      have ha : s.st.loopActive = true := by simpa using ha
      split at h
      · next hb => cases h; exact .deliverBadLength len ha hb
      · next hb =>
        have hb : len = s.st.buflen := not_not.1 hb
        split at h
        · next hr => cases h; exact .deliverCancelled len ha hb hr
        · next hr =>
          have hr : s.st.running = true := by simpa using hr
          split at h
          · next hk => cases h; exact .deliverSkipped len ha hb hr hk
          · next hk =>
            unfold State.deliverPush at h
            split at h
            · next ht =>
              cases h
              exact .delivered len ha hb hr (by omega) (by simpa [Block.slotExists] using ht)
            · cases h
  | drvExit x =>
    simp only [exec, execDrvExit] at h
    split at h
    · next ha => cases h; exact .exitNoLoop x ha
    · next ha => cases h; exact .exited x (by simpa using ha)
  | produce want =>
    simp only [exec, execProduce] at h
    split at h
    · next hr =>
      unfold State.produceReady at h
      split at h
      · next hl => cases h; exact .produceClosed want hr hl
      · next hl =>
        split at h
        · next he => cases h; exact .endOfStream want hr hl he.1 he.2
        · next he =>
          split at h
          · next hv => cases h; exact .drained want hr hl he hv
          · cases h
    · next hr => cases h; exact .produceHolds want (by simpa using hr)

/-- What a command does to the ports: it answers on its own port and leaves the others, or it holds. -/
theorem ExecCase.ports {s t : State} {i : Instr} (he : ExecCase s i t) :
    (∃ r, t.io.out i.port = r :: s.io.out i.port ∧ t.io.cmds i.port = (s.io.cmds i.port).tail ∧
      (∀ q, q ≠ i.port → t.io.out q = s.io.out q ∧ t.io.cmds q = s.io.cmds q) ∧
      t.st.hostWait = s.st.hostWait ∧
      t.st.consWait = (if i.port = .consumer then .none else s.st.consWait)) ∨
    (t.io = s.io ∧
      ((i = .stop ∧ t.st.hostWait = .stopJoin ∧ t.st.consWait = s.st.consWait) ∨
       (i = .close ∧ t.st.hostWait = .closeJoin ∧ t.st.consWait = s.st.consWait) ∨
       (∃ w, i = .produce w ∧ t.st.consWait = .produce w ∧ t.st.hostWait = s.st.hostWait))) := by
  cases he
  case stopHolds => exact .inr ⟨rfl, .inl ⟨rfl, rfl, rfl⟩⟩
  case closeHolds => exact .inr ⟨rfl, .inr (.inl ⟨rfl, rfl, rfl⟩)⟩
  case produceHolds w hr => exact .inr ⟨rfl, .inr (.inr ⟨w, rfl, rfl, rfl⟩)⟩
  case drained want hr hl he hv =>
    refine .inl ⟨_, rfl, rfl, ?_, ?_, ?_⟩
    · intro q hq
      simp only [Instr.port, Instr.opcode, Opcode.port] at hq
      simp [hq.symm]
    · rw [State.respond_st, Block.drain_frame]
      simp
    · rw [State.respond_st, Block.drain_frame]
      simp [Instr.port, Instr.opcode, Opcode.port]
  all_goals
    refine .inl ⟨_, rfl, rfl, ?_, ?_, ?_⟩
    · intro q hq
      simp only [Instr.port, Instr.opcode, Opcode.port] at hq
      simp [hq.symm]
    · simp
    · simp [Instr.port, Instr.opcode, Opcode.port]

/-- No hold keeps a port from its next command. -/
def PortFree (s : State) : Port → Prop
  | .host     => s.st.hostWait = .none
  | .producer => True
  | .consumer => s.st.consWait = .none

/-- All that a step can do when it answers a next state. -/
inductive StepCase (s : State) : State → Prop where
  | idle : StepCase s s.tick
  | ran (p : Port) (c : Command) (cs : List Command) (i : Instr) (t : State) (hp : s.nextPick = portPick p)
      (hf : PortFree s p) (hc : s.io.cmds p = c :: cs) (hw : encode i = c.word) (hi : i.port = p)
      (he : ExecCase s.tick i t) : StepCase s t
  | rejected (p : Port) (c : Command) (cs : List Command) (r : Reject) (hp : s.nextPick = portPick p)
      (hf : PortFree s p) (hc : s.io.cmds p = c :: cs) (hd : decodeOn p c.word = .reject r) :
    StepCase s (s.tick.raiseFault p (rejectCause r) c.word)
  | retried (want : Operand) (t : State) (hp : s.nextPick = .consumer) (hw : s.st.consWait = .produce want)
      (he : ExecCase s.tick (.produce want) t) : StepCase s t
  | stopJoined (hp : s.nextPick = .host) (hw : s.st.hostWait = .stopJoin) (ha : s.st.loopActive = false) :
    StepCase s s.tick.completeStop
  | closeJoined (hp : s.nextPick = .host) (hw : s.st.hostWait = .closeJoin) (ha : s.st.loopActive = false) :
    StepCase s s.tick.completeClose
  | timedOut (want : Operand) (hp : s.nextPick = .timeout) (hw : s.st.consWait = .produce want)
      (ht : s.params.prefillTimeout = true) (hr : s.st.ready s.params = false) :
    StepCase s (s.tick.respond .consumer (Response.ok 0) { s.st with consWait := .none })
  | reset (hp : s.nextPick = .reset) : StepCase s s.tick.hardwareReset

theorem commandStep_cases {s t : State} {p : Port} (hp : s.nextPick = portPick p) (hf : PortFree s p)
    (h : s.tick.commandStep p = .next t) : StepCase s t := by
  unfold State.commandStep at h
  split at h
  · cases h; exact .idle
  · next c cs hc =>
    rw [State.tick_cmds] at hc
    split at h
    · next i hi =>
      obtain ⟨hw, hip⟩ := encode_of_decodeOn hi
      exact .ran p c cs i t hp hf hc hw hip (exec_cases h)
    · next r hr => cases h; exact .rejected p c cs r hp hf hc hr

theorem step_cases {s t : State} (h : step s = .next t) : StepCase s t := by
  unfold step State.pickStep at h
  split at h
  · next hp =>
    unfold State.hostStep at h
    split at h
    · next hw => exact commandStep_cases (p := .host) hp hw h
    · next hw =>
      cases h
      split
      · exact .idle
      · next ha => exact .stopJoined hp hw (by simpa using ha)
    · next hw =>
      cases h
      split
      · exact .idle
      · next ha => exact .closeJoined hp hw (by simpa using ha)
  · next hp => exact commandStep_cases (p := .producer) hp trivial h
  · next hp =>
    unfold State.consumerStep at h
    split at h
    · next hw => exact commandStep_cases (p := .consumer) hp hw h
    · next want hw => exact .retried want t hp hw (exec_cases h)
  · next hp =>
    cases h
    unfold State.prefillTimeout
    split
    · exact .idle
    · next want hw =>
      split
      · next ht => exact .timedOut want hp hw ht.1 ht.2
      · exact .idle
  · next hp => cases h; exact .reset hp

/-- A step of a port that is free runs its current command. -/
theorem step_of_command {s : State} {p : Port} (hp : s.nextPick = portPick p) (hf : PortFree s p) :
    step s = s.tick.commandStep p := by
  cases p with
  | host =>
    have hp : s.nextPick = .host := hp
    have hf : s.st.hostWait = .none := hf
    simp [step, State.pickStep, hp, State.hostStep, hf]
  | producer =>
    have hp : s.nextPick = .producer := hp
    simp [step, State.pickStep, hp, State.producerStep]
  | consumer =>
    have hp : s.nextPick = .consumer := hp
    have hf : s.st.consWait = .none := hf
    simp [step, State.pickStep, hp, State.consumerStep, hf]

theorem commandStep_of_instr {s : State} {p : Port} {c : Command} {cs : List Command} {i : Instr}
    (hc : s.io.cmds p = c :: cs) (hd : decodeOn p c.word = .instr i) : s.commandStep p = exec i s := by
  simp only [State.commandStep, hc, hd]

theorem commandStep_of_reject {s : State} {p : Port} {c : Command} {cs : List Command} {r : Reject}
    (hc : s.io.cmds p = c :: cs) (hd : decodeOn p c.word = .reject r) :
    s.commandStep p = .next (s.raiseFault p (rejectCause r) c.word) := by
  simp only [State.commandStep, hc, hd]

end Sys2Proof.Machine
end

