-- ==== Sys2Proof/Laws/Invariant.lean ====
section
/-! SUPPORT. What each kind of update of `st` does to the invariant of R43: a push, a drain, an update that leaves the
ring alone, a ring that starts empty. -/

namespace Sys2Proof.Machine

variable {p : Params} {st st' : Block}

theorem Block.ready_iff :
    st.ready p = true ↔
      (st.running = false ∨ p.minPrefill ≤ st.used ∨ (p.prefillMode = .once ∧ st.primed = true)) := by
  simp [Block.ready]

/-- The read loop is active on an open block only. -/
theorem Block.Inv.opened_of_loopActive (h : Block.Inv p st) (ha : st.loopActive = true) : st.life = .opened := by
  rcases hl : st.life
  · have := (h.closedIsEmpty hl).2.2.2.2.2.2.1
    simp_all
  · rfl

/-- Every byte of slot `s` was written. -/
def Block.Written (st : Block) (s : Nat) : Prop :=
  ∀ j, j < st.buflen.toNat → (Memory.read st.slots.cells (st.slotAddr s j)).isSome = true

theorem Block.written_slotWrite_other {s t : Nat} {bytes : List Byte} (hst : s ≠ t)
    (hl : bytes.length = st.buflen.toNat) (h : st.Written s) : (st.slotWrite t bytes).Written s := by
  intro j hj
  have hj : j < st.buflen.toNat := hj
  have hs := h j hj
  change (Memory.read (Memory.writeBlock st.slots.cells (st.slotAddr t 0) bytes) (st.slotAddr s j)).isSome = true
  rwa [Memory.read_writeBlock_outside]
  simp only [Block.slotAddr, hl, Nat.add_zero]
  rcases Nat.lt_or_gt_of_ne hst with h | h
  · left
    have : (s + 1) * st.buflen.toNat ≤ t * st.buflen.toNat := Nat.mul_le_mul_right _ h
    rw [Nat.succ_mul] at this
    omega
  · right
    have : (t + 1) * st.buflen.toNat ≤ s * st.buflen.toNat := Nat.mul_le_mul_right _ h
    rw [Nat.succ_mul] at this
    omega

theorem Block.written_slotWrite_self {t : Nat} {bytes : List Byte} (hl : bytes.length = st.buflen.toNat) :
    (st.slotWrite t bytes).Written t := by
  intro j hj
  have hj : j < st.buflen.toNat := hj
  change (Memory.read (Memory.writeBlock st.slots.cells (st.slotAddr t 0) bytes) (st.slotAddr t j)).isSome = true
  have : st.slotAddr t j = st.slotAddr t 0 + j := by simp [Block.slotAddr]
  rw [Memory.read_writeBlock_inside _ (by omega) (by omega)]
  simp [this]
  omega

/-- PUSH keeps the invariant (R122, R123). -/
theorem Block.Inv.push {bytes : List Byte} (h : Block.Inv p st) (ha : st.loopActive = true)
    (hr : st.running = true) (hl : bytes.length = st.buflen.toNat) : Block.Inv p (st.push bytes) := by
  have ho := h.opened_of_loopActive ha
  obtain ⟨g1, g2, g3, g4, g5, g6⟩ := h.openGeometry ho
  have hin : ∀ c ∈ (st.push bytes).slots.cells, c.1 < st.nSlots.toNat * st.buflen.toNat := by
    intro c hc
    rw [Block.push_slots] at hc
    rcases Memory.mem_writeBlock hc with hc | ⟨-, hc⟩
    · exact h.cellsInside c hc
    · have : st.tail < st.nSlots.toNat := Nat.mod_lt _ g1
      have : (st.tail + 1) * st.buflen.toNat ≤ st.nSlots.toNat * st.buflen.toNat := Nat.mul_le_mul_right _ this
      rw [Nat.succ_mul] at this
      simp only [Block.slotAddr] at hc
      omega
  have hfill : ∀ i, i < (st.push bytes).used →
      (st.push bytes).Written (((st.push bytes).head + i) % st.nSlots.toNat) := by
    by_cases hf : st.used = st.nSlots.toNat
    · have e : st.push bytes = (st.slotWrite st.tail bytes).dropOldest := by simp [Block.push, hf]
      rw [e]
      intro i hi
      simp only [Block.dropOldest_head, Block.dropOldest_used, Block.slotWrite_head, Block.slotWrite_used,
        Block.slotWrite_nSlots, Nat.mod_add_mod] at hi ⊢
      have htail : st.tail = st.head := by simp [Block.tail, hf, Nat.mod_eq_of_lt g4]
      change (st.slotWrite st.tail bytes).Written _
      by_cases hlast : i + 1 = st.nSlots.toNat
      · have : (st.head + 1 + i) % st.nSlots.toNat = st.tail := by
          rw [htail, show st.head + 1 + i = st.head + st.nSlots.toNat by omega, Nat.add_mod_right,
            Nat.mod_eq_of_lt g4]
        rw [this]
        exact Block.written_slotWrite_self hl
      · apply Block.written_slotWrite_other _ hl
        · have := h.filledSlotsWritten (i + 1) (by omega)
          rw [show st.head + 1 + i = st.head + (i + 1) by omega]
          exact this
        · rw [htail, show st.head + 1 + i = st.head + (i + 1) by omega]
          have := ring_positions_differ (n := st.nSlots.toNat) (h := st.head) (i := 0) (j := i + 1)
            (by omega) (by omega)
          rw [Nat.add_zero, Nat.mod_eq_of_lt g4] at this
          exact this.symm
    · have e : st.push bytes = { st.slotWrite st.tail bytes with used := st.used + 1 } := by simp [Block.push, hf]
      rw [e]
      intro i hi
      change i < st.used + 1 at hi
      change (st.slotWrite st.tail bytes).Written ((st.head + i) % st.nSlots.toNat)
      by_cases hlast : i = st.used
      · subst hlast
        exact Block.written_slotWrite_self hl
      · apply Block.written_slotWrite_other _ hl (h.filledSlotsWritten i (by omega))
        exact ring_positions_differ (by omega) (by omega)
  refine ⟨h.paramsWf, by simpa using h.cfgBuffersLegal, by simpa using h.cfgBuflenLegal, ?_, ?_, ?_,
    by simpa using h.runningHasLoop, ?_, ?_, by simpa using h.skipBounded, ?_, ?_⟩
  · intro hc
    simp [ho] at hc
  · intro _
    rw [Block.slotSamples_congr (st := st) (by simp)]
    simp only [Block.push_nSlots, Block.push_buflen]
    refine ⟨g1, g2, g3, ?_, ?_, ?_⟩
    · by_cases hf : st.used = st.nSlots.toNat
      · simp [Block.push, hf]
        exact Nat.mod_lt _ g1
      · simp [Block.push, hf, g4]
    · by_cases hf : st.used = st.nSlots.toNat
      · simp [Block.push, hf]
      · simp [Block.push, hf]
        omega
    · by_cases hf : st.used = st.nSlots.toNat
      · simp [Block.push, hf]
        omega
      · simp [Block.push, hf, g6]
  · intro hu
    by_cases hf : st.used = st.nSlots.toNat
    · simp [Block.push, hf]
    · simp [Block.push, hf] at hu
  · intro _ hr'
    simp [hr] at hr'
  · intro i hi
    rw [Block.push_nSlots]
    exact hfill i hi
  · rw [Block.push_slots]
    exact Memory.wf_writeBlock h.cellsWf _ _
  · simpa using hin

/-- The drain keeps the invariant (R143, R145). -/
theorem Block.Inv.drain {want : Operand} (h : Block.Inv p st) (ho : st.life = .opened) :
    Block.Inv p (st.drain p want).1 := by
  obtain ⟨g1, g2, g3, g4, g5, g6⟩ := h.openGeometry ho
  have hS : 0 < st.slotSamples := by omega
  by_cases hu0 : st.used = 0
  · have : (st.drain p want).1 = st := by simp [Block.drain, hu0, drainLoop]
    rw [this]
    exact h
  · have hc : (st.drain p want).1 = _ := drainLoop_cursor p st.used want.toNat st le_rfl (by omega) g4 g6
    rw [hc]
    set n := min want.toNat (st.used * st.slotSamples - st.offset) with hn
    set fr := (st.offset + n) / st.slotSamples with hfr
    have hsum : st.offset + n ≤ st.used * st.slotSamples := by
      have : st.slotSamples ≤ st.used * st.slotSamples := Nat.le_mul_of_pos_left _ (by omega)
      omega
    have hfu : fr ≤ st.used := by
      rw [hfr]
      exact Nat.div_le_of_le_mul (by rw [Nat.mul_comm]; exact hsum)
    refine ⟨h.paramsWf, h.cfgBuffersLegal, h.cfgBuflenLegal, ?_, ?_, ?_, h.runningHasLoop, h.stoppingWaits, ?_,
      h.skipBounded, h.cellsWf, h.cellsInside⟩
    · intro hcl
      change st.life = .closed at hcl
      simp [ho] at hcl
    · intro _
      exact ⟨g1, g2, g3, Nat.mod_lt _ g1, (Nat.sub_le _ _).trans g5, Nat.mod_lt _ hS⟩
    · intro hz
      change st.used - fr = 0 at hz
      have hfe : fr = st.used := Nat.le_antisymm hfu (Nat.sub_eq_zero_iff_le.mp hz)
      change (st.offset + n) % st.slotSamples = 0
      have h1 : st.used * st.slotSamples ≤ st.offset + n := by
        rw [← hfe, hfr]
        exact Nat.div_mul_le_self _ _
      have : st.offset + n = st.used * st.slotSamples := by omega
      rw [this]
      exact Nat.mul_mod_left _ _
    · intro i hi
      change i < st.used - fr at hi
      have := h.filledSlotsWritten (fr + i) (by omega)
      change st.Written (((st.head + fr) % st.nSlots.toNat + i) % st.nSlots.toNat)
      rw [Nat.mod_add_mod, Nat.add_assoc]
      exact this

/-- An update that leaves the ring, and either leaves the stream's fields or ends the stream as a cancel or the loop's
exit does, keeps the invariant. -/
theorem Block.Inv.update (h : Block.Inv p st) (hb : st'.cfgBuffers ≠ 0)
    (hb2 : st'.cfgBuflen ≠ 0 ∧ st'.cfgBuflen.toNat % p.buflenGranule = 0)
    (e1 : st'.life = st.life) (e2 : st'.nSlots = st.nSlots) (e3 : st'.buflen = st.buflen)
    (e4 : st'.slots = st.slots) (e5 : st'.head = st.head) (e6 : st'.used = st.used)
    (e7 : st'.offset = st.offset) (e8 : st'.primed = st.primed ∨ st.life = .opened) (e9 : st'.skipRem ≤ p.skipK)
    (r : (st'.running = st.running ∧ st'.loopActive = st.loopActive ∧ st'.cancelReq = st.cancelReq ∧
        st'.hostWait = st.hostWait) ∨
      (st'.running = false ∧
        (st'.loopActive = true → st.loopActive = true ∧ st'.cancelReq = true ∧ st'.hostWait ≠ .none))) :
    Block.Inv p st' := by
  refine ⟨h.paramsWf, hb, hb2, ?_, ?_, ?_, ?_, ?_, ?_, e9, by rw [e4]; exact h.cellsWf,
    by rw [e4, e2, e3]; exact h.cellsInside⟩
  · intro hl
    rw [e1] at hl
    obtain ⟨c1, c2, c3, c4, c5, c6, c7, c8, c9⟩ := h.closedIsEmpty hl
    rcases e8 with e8 | e8
    · refine ⟨e2 ▸ c1, e3 ▸ c2, e6 ▸ c3, e5 ▸ c4, e7 ▸ c5, ?_, ?_, e8 ▸ c8, e4 ▸ c9⟩
      · rcases r with r | r
        · rw [r.1, c6]
        · exact r.1
      · rcases r with r | r
        · rw [r.2.1, c7]
        · by_contra hne
          have := (r.2 (by simpa using hne)).1
          simp [c7] at this
    · simp [hl] at e8
  · intro hl
    rw [e1] at hl
    rw [e2, e3, e5, e6, e7, Block.slotSamples_congr e3]
    exact h.openGeometry hl
  · rw [e6, e7]
    exact h.cursorOfEmpty
  · intro hr
    rcases r with r | r
    · rw [r.2.1]
      exact h.runningHasLoop (r.1 ▸ hr)
    · simp [r.1] at hr
  · intro ha hr
    rcases r with r | r
    · rw [r.2.2.1, r.2.2.2]
      exact h.stoppingWaits (r.2.1 ▸ ha) (r.1 ▸ hr)
    · exact (r.2 ha).2
  · rw [e2, e3, e4, e5, e6]
    intro i hi j hj
    rw [Block.slotAddr_congr e3]
    exact h.filledSlotsWritten i hi j hj

/-- A fault keeps the invariant (R181). -/
theorem Block.Inv.recordFault (h : Block.Inv p st) (c : Cause) (w : Word) : Block.Inv p (st.recordFault c w) := by
  unfold Block.recordFault
  split
  · exact h
  · exact h.update h.cfgBuffersLegal h.cfgBuflenLegal rfl rfl rfl rfl rfl rfl rfl (.inl rfl) h.skipBounded
      (.inl ⟨rfl, rfl, rfl, rfl⟩)

/-- Priming an open block keeps the invariant (R142(c)). -/
theorem Block.Inv.prime (h : Block.Inv p st) (hl : st.life = .opened) : Block.Inv p (st.prime p) := by
  unfold Block.prime
  split
  · exact h.update h.cfgBuffersLegal h.cfgBuflenLegal rfl rfl rfl rfl rfl rfl rfl (.inr hl) h.skipBounded
      (.inl ⟨rfl, rfl, rfl, rfl⟩)
  · exact h

/-- An empty ring, of a closed block or of an open one with a legal geometry, has the invariant. -/
theorem Block.Inv.fresh (h : Block.Inv p st) (hu : st'.used = 0) (hh : st'.head = 0) (ho : st'.offset = 0)
    (hb : st'.cfgBuffers = st.cfgBuffers) (hb2 : st'.cfgBuflen = st.cfgBuflen)
    (hg : (st'.life = .closed ∧ st'.nSlots = 0 ∧ st'.buflen = 0 ∧ st'.running = false ∧ st'.loopActive = false ∧
        st'.primed = false ∧ st'.slots = Slots.empty) ∨
      (st'.life = .opened ∧ 1 ≤ st'.nSlots.toNat ∧ 512 ≤ st'.buflen.toNat ∧ st'.buflen.toNat % 512 = 0))
    (hl : st'.running = st'.loopActive) (hs : st'.skipRem ≤ p.skipK) (hw : Memory.wf st'.slots.cells)
    (hi : ∀ c ∈ st'.slots.cells, c.1 < st'.nSlots.toNat * st'.buflen.toNat) : Block.Inv p st' := by
  refine ⟨h.paramsWf, hb ▸ h.cfgBuffersLegal, hb2 ▸ h.cfgBuflenLegal, ?_, ?_, fun _ => ho, fun hr => hl ▸ hr, ?_, ?_,
    hs, hw, hi⟩
  · intro hc
    rcases hg with g | g
    · exact ⟨g.2.1, g.2.2.1, hu, hh, ho, g.2.2.2.1, g.2.2.2.2.1, g.2.2.2.2.2.1, g.2.2.2.2.2.2⟩
    · simp [hc] at g
  · intro hc
    rcases hg with g | g
    · simp [hc] at g
    · refine ⟨g.2.1, g.2.2.1, g.2.2.2, by omega, by omega, ?_⟩
      simp only [Block.slotSamples]
      omega
  · intro ha hr
    rw [hl, ha] at hr
    cases hr
  · intro i hi
    omega

/-- The pending configuration is always a legal geometry for OPEN (R25, R26, R102). -/
theorem Block.Inv.legalConfig (h : Block.Inv p st) :
    1 ≤ st.cfgBuffers.toNat ∧ 512 ≤ st.cfgBuflen.toNat ∧ st.cfgBuflen.toNat % 512 = 0 := by
  obtain ⟨h0, h1⟩ := h.cfgBuflenLegal
  obtain ⟨-, g0, g1, -⟩ := h.paramsWf
  have hd : st.cfgBuflen.toNat % 512 = 0 := by
    have := (Nat.dvd_of_mod_eq_zero g1).trans (Nat.dvd_of_mod_eq_zero h1)
    exact Nat.mod_eq_zero_of_dvd this
  have hb : st.cfgBuffers.toNat ≠ 0 := fun h' => h.cfgBuffersLegal (by simpa [← BitVec.toNat_inj] using h')
  have hl : st.cfgBuflen.toNat ≠ 0 := fun h' => h0 (by simpa [← BitVec.toNat_inj] using h')
  omega

end Sys2Proof.Machine
end

