-- ==== Sys2Proof/Laws/PerInstr.lean ====
section
/-! SUPPORT. Per-instruction facts about the syntax: the fields of each command's word, the port that accepts it, and its
decoding there. -/

namespace Sys2Proof.Laws.Encoding

/-- R71 to R74: the word of `i` holds its opcode and its operand, its row of the opcode map selects it, its own port
decodes it to `i`, and every other port rejects it as R73 says. -/
def Statement (i : Instr) : Prop :=
  opField (encode i) = i.opcode.code ∧ immField (encode i) = i.operand ∧
  decodeOn i.port (encode i) = .instr i ∧
  ∀ p, p ≠ i.port → decodeOn p (encode i) = .reject .wrongPort

theorem statement_of (i : Instr) : Statement i := by
  refine ⟨opField_encode i, immField_encode i, decodeOn_encode i, fun p hp => ?_⟩
  have : ¬ i.opcode.port = p := fun h => hp h.symm
  simp [decodeOn, this]

theorem cfgBuffers (n : Operand) : Statement (.cfgBuffers n) := statement_of _
theorem cfgBuflen (b : Operand) : Statement (.cfgBuflen b) := statement_of _
theorem openDevice : Statement .openDevice := statement_of _
theorem start : Statement .start := statement_of _
theorem stop : Statement .stop := statement_of _
theorem close : Statement .close := statement_of _
theorem readReg (sel : Operand) : Statement (.readReg sel) := statement_of _
theorem deliver (len : Operand) : Statement (.deliver len) := statement_of _
theorem drvExit (status : Operand) : Statement (.drvExit status) := statement_of _
theorem produce (want : Operand) : Statement (.produce want) := statement_of _

end Sys2Proof.Laws.Encoding
end

