-- ==== Sys2Proof/Tests/Slice0.lean ====
section
/-! SUPPORT. Tests: the checks that refuse ill-formed terms, words written out from the spec's encoding, single steps with
values from spec/95_test_vectors.md or worked out by hand from the rule named, and for every statement of
Obligations.lean with hypotheses a witness that meets them all. -/

namespace Sys2Proof.Tests

open Sys2Proof Sys2Proof.Machine

/-! ### Helpers -/

/-- The parameters of spec/95_test_vectors.md section 0. -/
def params : Params := { Params.hardware with ringBytesMax := 2 ^ 32 }

/-- A block after reset. -/
def fresh : Block := Block.reset params

/-- An open block of `n` slots of `b` bytes that has not been started. -/
def openBlock (n b : Operand) : Block :=
  { fresh with life := .opened, cfgBuffers := n, cfgBuflen := b, nSlots := n, buflen := b }

/-- A started block whose skip window is over. -/
def running (n b : Operand) : Block := { openBlock n b with running := true, loopActive := true }

/-- A state with that block, OPEN_OK = true, and nothing else. -/
def at' (st : Block) : State := ⟨st, params, { Io.reset with openAnswers := [true] }⟩

/-- The state with one command issued on a port, and that port's step offered next. -/
def issue (p : Port) (w : Word) (payload : List Byte) (s : State) : State :=
  match p with
  | .host     => { s with io := { s.io with hostCmds := [⟨w, payload⟩], sched := [.host] } }
  | .producer => { s with io := { s.io with prodCmds := [⟨w, payload⟩], sched := [.producer] } }
  | .consumer => { s with io := { s.io with consCmds := [⟨w, payload⟩], sched := [.consumer] } }

/-- The state with that step offered next. -/
def pick (k : Pick) (s : State) : State := { s with io := { s.io with sched := [k] } }

/-- What a next state shows, if there is one. -/
def see {α : Type} (f : State → α) : Host.Outcome State Fault Refusal → Option α
  | .next t    => some (f t)
  | .fault _   => none
  | .refused _ => none

/-- The tagged block `Bt` of spec/95_test_vectors.md section 0. -/
def tagged (t : Nat) : List Byte :=
  (List.range 128).flatMap (fun i => [BitVec.ofNat 8 t, BitVec.ofNat 8 (t / 256), BitVec.ofNat 8 i, 0])

/-- A running ring of four slots with B1, B2, B3 in slots 0, 1 and 2 (start of V41 to V49). -/
def threeBlocks : Block :=
  { (((running 4 512).slotWrite 0 (tagged 1)).slotWrite 1 (tagged 2)).slotWrite 2 (tagged 3) with used := 3 }

/-! ### The WellFormed checks -/

theorem test_operand_too_wide_refused :
    AsmLine.wf ⟨.host, .cfgBuffers, some (2 ^ 28)⟩ = false ∧
    assemble ⟨.host, .cfgBuffers, some (2 ^ 28)⟩ = none := by decide

theorem test_missing_operand_refused :
    AsmLine.wf ⟨.producer, .deliver, none⟩ = false ∧ assemble ⟨.producer, .deliver, none⟩ = none := by decide

theorem test_other_ports_mnemonic_refused :
    AsmLine.wf ⟨.host, .deliver, some 512⟩ = false ∧ assemble ⟨.host, .deliver, some 512⟩ = none := by decide

theorem test_short_payload_refused : payloadWf (.deliver 512) [1, 2, 3] = false := by decide

theorem test_payload_of_other_command_refused : payloadWf .start [1] = false := by decide

/-! ### Encoding: words written out from R71 and R74 -/

theorem test_decode_cfgBuffers : decodeOn .host 0b00010000000000000000000000000100#32 = .instr (.cfgBuffers 4) := by decide
theorem test_decode_cfgBuflen : decodeOn .host 0b00100000000000000000001000000000#32 = .instr (.cfgBuflen 512) := by decide
theorem test_decode_open : decodeOn .host 0b00110000000000000000000000000000#32 = .instr .openDevice := by decide
theorem test_decode_start : decodeOn .host 0b01000000000000000000000000000000#32 = .instr .start := by decide
theorem test_decode_stop : decodeOn .host 0b01010000000000000000000000000000#32 = .instr .stop := by decide
theorem test_decode_close : decodeOn .host 0b01100000000000000000000000000000#32 = .instr .close := by decide
theorem test_decode_readReg : decodeOn .host 0b01110000000000000000000000001101#32 = .instr (.readReg 13) := by decide
theorem test_decode_deliver : decodeOn .producer 0b10000000000000000000001000000000#32 = .instr (.deliver 512) := by decide
theorem test_decode_drvExit : decodeOn .producer 0b10011111111111111111111111111111#32 = .instr (.drvExit 0xFFFFFFF) := by decide
theorem test_decode_produce : decodeOn .consumer 0b10100000000000000000000100101100#32 = .instr (.produce 300) := by decide

/-- V70, V71, V72, V73, V74, V75, V76, V79. -/
theorem test_decode_rejects :
    decodeOn .host 0x00000000 = .reject .reservedOpcode ∧ decodeOn .consumer 0xC0000000 = .reject .reservedOpcode ∧
    decodeOn .host 0xFFFFFFFF = .reject .reservedOpcode ∧ decodeOn .host 0x80000200 = .reject .wrongPort ∧
    decodeOn .producer 0x10000004 = .reject .wrongPort ∧ decodeOn .consumer 0x70000000 = .reject .wrongPort ∧
    decodeOn .host 0x30000001 = .reject .illegalOperand ∧ decodeOn .host 0x60000010 = .reject .illegalOperand := by
  decide

/-- The opcode map's rows do not overlap: no word has two rows' masked bits (R74). -/
theorem test_rows_do_not_overlap :
    opcodeRows.Pairwise (fun r q => r.pattern &&& (r.mask &&& q.mask) ≠ q.pattern &&& (r.mask &&& q.mask)) := by decide

/-- R80's examples, and `STOP 1` of program 3. -/
theorem test_assemble :
    assemble ⟨.host, .cfgBuffers, some 4⟩ = some 0x10000004 ∧ assemble ⟨.producer, .deliver, some 512⟩ = some 0x80000200 ∧
    assemble ⟨.consumer, .produce, some 300⟩ = some 0xA000012C ∧ assemble ⟨.host, .stop, some 1⟩ = some 0x50000001 := by
  decide

/-- Lines of spec/95_test_vectors.md as tokens. -/
theorem test_parse :
    parseLine ["host:", "READ_REG", "0xA"] = some ⟨.host, .readReg, some 10⟩ ∧
    parseLine ["prod:", "DELIVER", "512", "B1"] = some ⟨.producer, .deliver, some 512⟩ ∧
    parseLine ["host:", "STOP"] = some ⟨.host, .stop, none⟩ ∧ parseLine ["cons:", "PRODUCE", "0x"] = none := by
  decide

/-- The table row numbering has the word itself (R71). -/
theorem test_decodeTableWord :
    decodeTableWord 32 0x7000000A = some (.readReg 0xA) ∧ decodeTableWord 32 0x30000001 = none ∧
    decodeTableWord 64 0x70000000 = none := by decide

/-! ### Reset and steps -/

/-- R200, V10. -/
theorem test_reset_state_register :
    State.reset.st.stateWord = 0x80 ∧ State.reset.st.cfgBuffers = 15 ∧ State.reset.st.cfgBuflen = 819200 ∧
    Memory.wf State.reset.st.slots.cells := by decide

/-- V10 as the first step after reset. -/
theorem test_first_step_runs_the_word :
    see (fun t => (t.io.hostOut, t.io.hostCmds)) (step (State.reset.withFetchWord 32 0x70000000)) =
      some ([⟨false, 0x80, []⟩], []) := by decide

/-- V86: the sticky record of the first fault is kept. -/
theorem test_second_fault_keeps_record :
    see (fun t => (t.io.hostOut, t.st.faultCause, t.st.faultInfo))
      (step (issue .host 0xB0000000 [] (at' { fresh with fault := true, faultCause := 3, faultInfo := 0x40000000 }))) =
      some ([⟨true, 1, []⟩], 3, 0x40000000) := by decide

/-- V81, V84: the codes of ALREADY_OPEN and BAD_LENGTH. -/
theorem test_fault_codes :
    see (fun t => (t.io.hostOut, t.st.faultCause, t.st.faultInfo)) (step (issue .host 0x30000000 [] (at' (openBlock 4 512)))) =
      some ([⟨true, 4, []⟩], 4, 0x30000000) ∧
    see (fun t => (t.io.prodOut, t.st.faultCause, t.st.faultInfo)) (step (issue .producer 0x80000000 [] (at' (running 4 512)))) =
      some ([⟨true, 7, []⟩], 7, 0x80000000) := by decide

/-- V77: ILLEGAL_OPERAND comes before NOT_OPEN. -/
theorem test_operand_check_first :
    see (fun t => (t.io.hostOut, t.st.faultCause, t.st.faultInfo)) (step (issue .host 0x4FFFFFFF [] (at' fresh))) =
      some ([⟨true, 2, []⟩], 2, 0x4FFFFFFF) := by decide

/-- V26, second half: the STOP completes once the loop has exited. -/
theorem test_stop_joins :
    see (fun t => (t.io.hostOut, t.st.stateWord, t.st.hostWait))
      (step (issue .host 0x50000000 [] (at' { openBlock 4 512 with cancelReq := true, hostWait := .stopJoin }))) =
      some ([⟨false, 0, []⟩], 0x81, .none) := by decide

/-- R212(a): with the loop active the same step does nothing. -/
theorem test_join_waits :
    see (fun t => (t.io.hostOut, t.st.hostWait))
      (step (issue .host 0x50000000 []
        (at' { openBlock 4 512 with loopActive := true, cancelReq := true, hostWait := .stopJoin }))) =
      some ([], .stopJoin) := by decide

/-- R147: the timeout step answers (0, 0), where the parameter is set, and does nothing in this hardware. -/
theorem test_timeout :
    see (fun t => (t.io.consOut, t.st.consWait))
      (step (pick .timeout { at' { running 4 512 with consWait := .produce 9 } with
        params := { params with prefillTimeout := true } })) = some ([⟨false, 0, []⟩], .none) ∧
    see (fun t => (t.io.consOut, t.st.consWait))
      (step (pick .timeout (at' { running 4 512 with consWait := .produce 9 }))) = some ([], .produce 9) := by decide

/-! ### Host port -/

/-- V12, V13. -/
theorem test_cfgBuffers :
    see (fun t => t.st.cfgBuffers) (exec (.cfgBuffers 0) (at' fresh)) = some 15 ∧
    see (fun t => t.st.cfgBuffers) (exec (.cfgBuffers 0xFFFFFFF) (at' fresh)) = some 268435455 := by decide

/-- V14 to V18. -/
theorem test_cfgBuflen :
    [(513 : Operand), 0, 512, 0xFFFFE00, 0xFFFFFFF].map
      (fun b => see (fun t => t.st.cfgBuflen) (exec (.cfgBuflen b) (at' fresh))) =
      [some 819200, some 819200, some 512, some 268434944, some 819200] := by decide

/-- V19. -/
theorem test_open :
    see (fun t => (t.io.hostOut, t.st.stateWord, t.st.nSlots, t.st.buflen)) (exec .openDevice (at' fresh)) =
      some ([⟨false, 0, []⟩], 0x81, 15, 819200) := by decide

/-- V20, V21. -/
theorem test_open_fails :
    see (fun t => (t.io.hostOut, t.st))
      (exec .openDevice { at' fresh with io := { Io.reset with openAnswers := [false] } }) =
      some ([⟨false, 1, []⟩], fresh) ∧
    see (fun t => (t.io.hostOut, t.st)) (exec .openDevice { at' fresh with params := { params with ringBytesMax := 12287999 } }) =
      some ([⟨false, 1, []⟩], fresh) := by decide

/-- V22. -/
theorem test_start :
    see (fun t => (t.io.hostOut, t.st.stateWord, t.st.skipRem)) (exec .start (at' (openBlock 15 819200))) =
      some ([⟨false, 0, []⟩], 0x87, 1) := by decide

/-- V80, V82. -/
theorem test_start_faults :
    see (fun t => (t.io.hostOut, t.st.faultCause, t.st.faultInfo)) (exec .start (at' fresh)) =
      some ([⟨true, 3, []⟩], 3, 0x40000000) ∧
    see (fun t => (t.io.hostOut, t.st.faultCause, t.st.faultInfo)) (exec .start (at' (running 4 512))) =
      some ([⟨true, 5, []⟩], 5, 0x40000000) := by decide

/-- V25. -/
theorem test_stop_holds :
    see (fun t => (t.io.hostOut, t.st.stateWord, t.st.hostWait)) (exec .stop (at' (running 4 512))) =
      some ([], 0x8D, .stopJoin) := by decide

/-- V23, V24. -/
theorem test_stop_idle :
    see (fun t => (t.io.hostOut, t.st)) (exec .stop (at' fresh)) = some ([⟨false, 0, []⟩], fresh) ∧
    see (fun t => (t.io.hostOut, t.st)) (exec .stop (at' (openBlock 4 512))) =
      some ([⟨false, 0, []⟩], openBlock 4 512) := by decide

/-- V27. -/
theorem test_close_holds :
    see (fun t => (t.io.hostOut, t.st.stateWord, t.st.hostWait)) (exec .close (at' (running 4 512))) =
      some ([], 0x8D, .closeJoin) := by decide

/-- V29, and R106's corner case: the counters and the fault record survive. -/
theorem test_close_frees :
    see (fun t => (t.st.stateWord, t.st.nSlots, t.st.ovfCount, t.st.drvStatus))
      (exec .close (at' { openBlock 4 512 with used := 2, ovfCount := 2, drvStatus := 7 })) = some (0x80, 0, 2, 7) := by
  decide

/-- V57 and V66: TAIL while open and while closed. -/
theorem test_readReg_tail :
    see (fun t => t.io.hostOut) (exec (.readReg 7) (at' { openBlock 4 512 with head := 3 })) = some [⟨false, 3, []⟩] ∧
    see (fun t => t.io.hostOut) (exec (.readReg 7) (at' fresh)) = some [⟨false, 0, []⟩] := by decide

/-- V64, V65: the whole operand is the selector. -/
theorem test_readReg_unknown :
    see (fun t => (t.io.hostOut, t.st.faultInfo)) (exec (.readReg 0xE) (at' fresh)) = some ([⟨true, 8, []⟩], 0x7000000E) ∧
    see (fun t => (t.io.hostOut, t.st.faultInfo)) (exec (.readReg 0x100) (at' fresh)) =
      some ([⟨true, 8, []⟩], 0x70000100) := by decide

/-! ### Producer port -/

/-- V33: slot 3 holds B4, whose sample 5 has bytes 4, 0, 5, 0. -/
theorem test_deliver_pushes :
    see (fun t => (t.st.used, t.st.head, t.st.stateWord, t.st.slotRead 3 20 4))
      (exec (.deliver 512) (at' { running 4 512 with used := 3 } |> issue .producer 0x80000200 (tagged 4))) =
      some (4, 0, 0x47, [4, 0, 5, 0]) := by decide +kernel

/-- V35: an overflow at `head = 3` with the counter at its end. -/
theorem test_deliver_overflows :
    see (fun t => (t.st.used, t.st.head, t.st.offset, t.st.ovfCount, t.st.slotRead 3 508 4))
      (exec (.deliver 512) (at' { running 4 512 with head := 3, used := 4, offset := 9, ovfCount := 0xFFFFFFFF } |>
        issue .producer 0x80000200 (tagged 6))) =
      some (4, 0, 0, 0, [6, 0, 127, 0]) := by decide +kernel

/-- V38. -/
theorem test_drvExit :
    see (fun t => (t.io.prodOut, t.st.stateWord, t.st.drvStatus)) (exec (.drvExit 0xFFFFFFF) (at' (running 4 512))) =
      some ([⟨false, 0, []⟩], 0x81, 0xFFFFFFF) := by decide

/-- V39: the status is unchanged. -/
theorem test_drvExit_faults :
    see (fun t => (t.io.prodOut, t.st.drvStatus)) (exec (.drvExit 0) (at' { openBlock 4 512 with drvStatus := 7 })) =
      some ([⟨true, 6, []⟩], 7) := by decide

/-! ### Consumer port and converter -/

/-- V41: a PRODUCE below the threshold holds. -/
theorem test_produce_holds :
    see (fun t => (t.io.consOut, t.st.consWait)) (exec (.produce 300) (at' { running 4 512 with used := 2 })) =
      some ([], .produce 300) := by decide

/-- V49a's start with B4 in slot 3 and B5 in slot 0. -/
def twoBlocks : State :=
  at' { ((running 4 512).slotWrite 3 (tagged 4)).slotWrite 0 (tagged 5) with
    head := 3, used := 2, offset := 100, primed := true }

/-- V49a: 28 samples of slot 3 (codes 100 to 127), then 12 of slot 0. -/
theorem test_produce_crosses_slots :
    see (fun t => (t.st.head, t.st.used, t.st.offset)) (exec (.produce 40) twoBlocks) = some (0, 1, 12) := by
  decide +kernel

/-- V49a's output: 40 samples, the last of B4 and then the first of B5. -/
theorem test_produce_output :
    see (fun t => t.io.consOut.map (fun r => (r.value, r.payload.length))) (exec (.produce 40) twoBlocks) =
      some [(0x28, 40)] ∧
    see (fun t => t.io.consOut.map (fun r => (r.payload.drop 27).take 2)) (exec (.produce 40) twoBlocks) =
      some [[⟨0x39000000, 0x3B7E0000⟩, ⟨0x39200000, 0x00000000⟩]] := by decide +kernel

/-- V30 to V30s. -/
theorem test_converter_table :
    ([0x8000, 0x8001, 0x8002, 0xAAAA, 0xC000, 0xCFC7, 0xF000, 0xFF00, 0xFFFE, 0xFFFF, 0, 1, 2, 256, 1000, 4096, 12345,
      16384, 0x5555, 0x7FFF] : List Half).map (fun h => scaleCode 15 (sint16 h)) =
    [0xBF800000, 0xBF7FFE00, 0xBF7FFC00, 0xBF2AAC00, 0xBF000000, 0xBEC0E400, 0xBE000000, 0xBC000000, 0xB8800000,
     0xB8000000, 0, 0x38000000, 0x38800000, 0x3C000000, 0x3CFA0000, 0x3E000000, 0x3EC0E400, 0x3F000000, 0x3F2AAA00,
     0x3F7FFE00] := by decide

/-- V30t, and V30u: 14640 is 2^13 + 6448 and 14385 is 2^13 + 6193, so their fractions are 6448·1024 and 6193·1024. -/
theorem test_convert_byte_order :
    convert params 0x39 0x30 0xC7 0xCF = ⟨0x3EC0E400, 0xBEC0E400⟩ ∧
    convert { params with rawEndian := .big } 0x39 0x30 0xC7 0xCF = ⟨0x3EE4C000, 0xBEE0C400⟩ := by decide

/-- V3: the bytes of output sample 0. -/
theorem test_output_bytes :
    Response.payloadBytes ⟨false, 1, [convert params 0x00 0x80 0xFF 0x7F]⟩ =
      [0x00, 0x00, 0x80, 0xBF, 0x00, 0xFE, 0x7F, 0x3F] := by decide

/-- A write over part of an older one keeps the canonical form. -/
theorem test_memory_canonical :
    Memory.writeBlock (Memory.writeBlock [] 2 [1, 2, 3]) 3 [8, 9, 7] = [(2, 1), (3, 8), (4, 9), (5, 7)] := by decide

/-! ### Witnesses: states and operands that meet all the hypotheses of each statement, clause by clause -/

/-- A running block with an empty ring meets the invariant (R43). -/
theorem running_inv (n b : Operand) (hn : 1 ≤ n.toNat) (hb : 512 ≤ b.toNat) (hm : b.toNat % 512 = 0) :
    Block.Inv params (running n b) := by
  have hn0 : n ≠ 0 := by rintro rfl; simp at hn
  have hb0 : b ≠ 0 := by rintro rfl; simp at hb
  refine ⟨by decide, hn0, ⟨hb0, hm⟩, fun h => (by cases h), fun _ => ⟨hn, hb, hm, hn, Nat.zero_le _, ?_⟩, fun _ => rfl,
    fun _ => rfl, fun _ h => (by cases h), fun i hi => absurd hi (Nat.not_lt_zero i), Nat.zero_le _, List.Pairwise.nil,
    fun c hc => (by cases hc)⟩
  change 0 < b.toNat / 4
  omega

/-- With no hold, holds match (R38). -/
theorem holdsMatch_of_none {s : State} (h1 : s.st.hostWait = .none) (h2 : s.st.consWait = .none) : s.HoldsMatch :=
  ⟨fun h => (by rw [h1] at h; cases h), fun h => (by rw [h1] at h; cases h), fun w h => (by rw [h2] at h; cases h)⟩

/-- A running block of four slots with a command issued. -/
def live (p : Port) (w : Word) (payload : List Byte) : State := issue p w payload (at' (running 4 512))

theorem live_inv (p : Port) (w : Word) (payload : List Byte) : (live p w payload).Inv := by
  cases p <;> exact ⟨running_inv 4 512 (by decide) (by decide) (by decide), holdsMatch_of_none rfl rfl⟩

/-- A full ring of one slot. -/
def full : State := at' ((running 1 512).push (tagged 1))

theorem full_inv : full.Inv :=
  ⟨(running_inv 1 512 (by decide) (by decide) (by decide)).push rfl rfl (by decide +kernel), holdsMatch_of_none rfl rfl⟩

/-- That ring after the loop's exit. -/
def stopped : State := at' (((running 1 512).push (tagged 1)).loopExit 0)

theorem stopped_inv : stopped.Inv :=
  ⟨full_inv.block.update full_inv.block.cfgBuffersLegal full_inv.block.cfgBuflenLegal rfl rfl rfl rfl rfl rfl rfl
    (.inl rfl) full_inv.block.skipBounded (.inr ⟨rfl, fun h => (by cases h)⟩), holdsMatch_of_none rfl rfl⟩

theorem witness_EncodingRoundTrip :
    decode 0x800C8000 = .instr (.deliver 819200) ∧ decodeOn .producer 0x800C8000 = .instr (.deliver 819200) := by decide

/-- Opcodes at the edges of each range, on both sides. -/
theorem witness_FirstFailingCheckRejects :
    decodeOn .host 0x00000000 = .reject .reservedOpcode ∧ decodeOn .producer 0xB0000000 = .reject .reservedOpcode ∧
    decodeOn .consumer 0xF0000000 = .reject .reservedOpcode ∧ decodeOn .producer 0x70000000 = .reject .wrongPort ∧
    decodeOn .host 0x80000000 = .reject .wrongPort ∧ decodeOn .producer 0xA0000000 = .reject .wrongPort ∧
    decodeOn .consumer 0x90000000 = .reject .wrongPort ∧ decodeOn .host 0x30000001 = .reject .illegalOperand ∧
    decodeOn .host 0x6FFFFFFF = .reject .illegalOperand ∧ decodeOn .host 0x1FFFFFFF = .instr (.cfgBuffers 0xFFFFFFF) ∧
    decodeOn .host 0x7FFFFFFF = .instr (.readReg 0xFFFFFFF) ∧ decodeOn .consumer 0xAFFFFFFF = .instr (.produce 0xFFFFFFF) := by
  decide

theorem witness_OneRowSelectsEachCommand :
    (⟨.produce, 0xA0000000, 0xF0000000⟩ : OpcodeRow) ∈ opcodeRows ∧
    OpcodeRow.selects ⟨.produce, 0xA0000000, 0xF0000000⟩ 0xAFFFFFFF = true ∧
    decode 0xAFFFFFFF = .instr (.produce 0xFFFFFFF) := by decide

theorem witness_AssemblerPacksOpAndOperand :
    Opcode.port .deliver = .producer ∧ 2 ^ 28 - 1 < 2 ^ 28 ∧ 2 ^ 28 ≤ 2 ^ 28 ∧ Opcode.port .deliver ≠ .host := by decide

theorem witness_PseudoCommandsExpand :
    2 ^ 28 - 1 < 2 ^ 28 ∧ (⟨.host, .stop, none⟩ : AsmLine) ∈ Pseudo.restart.expand := by decide

theorem witness_HardwareResetSetsEveryField :
    (pick .reset full).nextPick = .reset ∧ ∃ t, step (pick .reset (at' { running 4 512 with fault := true })) = .next t ∧
      (pick .reset (at' { running 4 512 with fault := true })).st.fault = true ∧ t.st.fault = false :=
  ⟨rfl, _, rfl, rfl, rfl⟩

theorem witness_StepKeepsInvariant :
    (live .host 0x50000000 []).Inv ∧ ∃ t, step (live .host 0x50000000 []) = .next t := ⟨live_inv _ _ _, _, rfl⟩

theorem witness_InvariantStatesKeepRunning : full.Inv ∧ (live .consumer 0xA0000001 []).Inv :=
  ⟨full_inv, live_inv _ _ _⟩

theorem witness_StepKeepsStorageCanonical :
    Memory.wf full.st.slots.cells ∧ ∃ t, step (pick .host full) = .next t := ⟨full_inv.block.cellsWf, _, rfl⟩

theorem witness_StepRunsDecodedCommand :
    (live .host 0x50000000 []).nextPick = .host ∧ (live .host 0x50000000 []).st.hostWait = .none ∧
    (live .host 0x50000000 []).io.hostCmds = [⟨0x50000000, []⟩] ∧ decodeOn .host 0x50000000 = .instr .stop ∧
    decodeOn .host 0x50000001 = .reject .illegalOperand ∧
    (live .producer 0x90000000 []).nextPick = .producer ∧
    (live .producer 0x90000000 []).io.prodCmds = [⟨0x90000000, []⟩] ∧
    decodeOn .producer 0x90000000 = .instr (.drvExit 0) ∧ decodeOn .producer 0xA0000000 = .reject .wrongPort ∧
    (live .consumer 0xA0000000 []).nextPick = .consumer ∧ (live .consumer 0xA0000000 []).st.consWait = .none ∧
    (live .consumer 0xA0000000 []).io.consCmds = [⟨0xA0000000, []⟩] ∧
    decodeOn .consumer 0xA0000000 = .instr (.produce 0) ∧ decodeOn .consumer 0xB0000000 = .reject .reservedOpcode := by
  decide

theorem witness_HeldProduceIsTriedAgain :
    (pick .consumer (at' { running 4 512 with consWait := .produce 0 })).nextPick = .consumer ∧
    (pick .consumer (at' { running 4 512 with consWait := .produce 0 })).st.consWait = .produce 0 := by decide

/-- The ring fits exactly (V21's bound). -/
theorem witness_OpenAllocatesTheRing :
    (at' fresh).st.life = .closed ∧ (at' fresh).openOk = true ∧
    (at' fresh).st.cfgBuffers.toNat * (at' fresh).st.cfgBuflen.toNat ≤ 12288000 ∧ 12288000 ≤ (at' fresh).params.ringBytesMax := by
  decide

/-- A device that does not open, a ring one byte too big, and a block that is open. -/
theorem witness_OpenFailsWithoutPartialState :
    (at' fresh).st.life = .closed ∧ State.openOk { at' fresh with io := { Io.reset with openAnswers := [false] } } = false ∧
    12287999 < (at' fresh).st.cfgBuffers.toNat * (at' fresh).st.cfgBuflen.toNat ∧ full.st.life = .opened := by decide

theorem witness_StartBeginsAStream :
    (at' (openBlock 4 512)).st.life = .opened ∧ (at' (openBlock 4 512)).st.loopActive = false := by decide

theorem witness_StartFaultsInOrder :
    (at' fresh).st.life = .closed ∧ (at' (running 4 512)).st.life = .opened ∧
    (at' (running 4 512)).st.loopActive = true := by decide

theorem witness_StopCancelsOrAnswers :
    (at' fresh).st.life = .closed ∧ (at' (openBlock 4 512)).st.loopActive = false ∧
    (at' (running 4 512)).st.life = .opened ∧ (at' (running 4 512)).st.loopActive = true := by decide

theorem witness_CloseCancelsOrFrees :
    (at' fresh).st.life = .closed ∧ (at' (running 4 512)).st.life = .opened ∧
    (at' (running 4 512)).st.loopActive = true ∧ (at' (openBlock 4 512)).st.life = .opened ∧
    (at' (openBlock 4 512)).st.loopActive = false := by decide

theorem witness_JoinCompletesAfterLoopExit :
    (pick .host (at' { openBlock 4 512 with cancelReq := true, hostWait := .stopJoin })).nextPick = .host ∧
    (at' { openBlock 4 512 with cancelReq := true, hostWait := .stopJoin }).st.hostWait = .stopJoin ∧
    (at' { openBlock 4 512 with cancelReq := true, hostWait := .closeJoin }).st.hostWait = .closeJoin ∧
    (at' { openBlock 4 512 with cancelReq := true, hostWait := .closeJoin }).st.loopActive = false := by decide

theorem witness_BootSequenceStartsAStream :
    (at' fresh).st.life = .closed ∧ (at' fresh).openOk = true ∧ (at' fresh).st.cfgBuffers ≠ 0 ∧
    (at' fresh).st.cfgBuffers.toNat * (at' fresh).st.cfgBuflen.toNat ≤ (at' fresh).params.ringBytesMax := by decide

/-- The last selector of the table and the first one after it. -/
theorem witness_ReadRegAnswersTheRegister :
    ((0xD, full.st.faultInfo) : Operand × Word) ∈ [((0x0, full.st.stateWord) : Operand × Word), (0xD, full.st.faultInfo)] ∧
    0xD < (0xE : Operand).toNat := ⟨List.mem_cons_of_mem _ (List.mem_cons_self ..), by decide⟩

theorem witness_DeliverFaultsInOrder :
    (at' fresh).st.loopActive = false ∧ (at' (running 4 512)).st.loopActive = true ∧
    (511 : Operand) ≠ (at' (running 4 512)).st.buflen := by decide

theorem witness_DeliverDiscards :
    (at' { running 4 512 with running := false, cancelReq := true }).st.loopActive = true ∧
    (at' { running 4 512 with running := false, cancelReq := true }).st.running = false ∧
    (at' { running 4 512 with skipRem := 1 }).st.running = true ∧
    0 < (at' { running 4 512 with skipRem := 1 }).st.skipRem := by decide

/-- One free slot left. -/
theorem witness_DeliverPushesAtTail :
    (issue .producer 0x80000200 (tagged 4) (at' { running 4 512 with used := 3 })).st.loopActive = true ∧
    (at' { running 4 512 with used := 3 }).st.running = true ∧ (at' { running 4 512 with used := 3 }).st.skipRem = 0 ∧
    (at' { running 4 512 with used := 3 }).st.used < (at' { running 4 512 with used := 3 }).st.nSlots.toNat ∧
    (issue .producer 0x80000200 (tagged 4) (at' { running 4 512 with used := 3 })).io.prodCmds =
      [⟨0x80000200, tagged 4⟩] ∧
    (tagged 4).length = (at' { running 4 512 with used := 3 }).st.buflen.toNat := by decide +kernel

/-- A full ring with `head` at its last slot. -/
theorem witness_DeliverOverflowDropsOldest :
    (issue .producer 0x80000200 (tagged 6) (at' { running 4 512 with head := 3, used := 4 })).st.loopActive = true ∧
    (at' { running 4 512 with head := 3, used := 4 }).st.running = true ∧
    (at' { running 4 512 with head := 3, used := 4 }).st.skipRem = 0 ∧
    (at' { running 4 512 with head := 3, used := 4 }).st.used = (at' { running 4 512 with used := 4 }).st.nSlots.toNat ∧
    (at' { running 4 512 with head := 3, used := 4 }).st.head < (at' { running 4 512 with used := 4 }).st.nSlots.toNat ∧
    (issue .producer 0x80000200 (tagged 6) (at' { running 4 512 with head := 3, used := 4 })).io.prodCmds =
      [⟨0x80000200, tagged 6⟩] ∧
    (tagged 6).length = (at' { running 4 512 with used := 4 }).st.buflen.toNat := by decide +kernel

theorem witness_DrvExitEndsTheLoop :
    (at' (running 4 512)).st.loopActive = true ∧ (at' (openBlock 4 512)).st.loopActive = false := by decide

theorem witness_ProducerPortNeverHolds :
    (live .producer 0x90000000 []).Inv ∧ (live .producer 0x90000000 []).nextPick = .producer ∧
    (live .producer 0x90000000 []).io.prodCmds = [⟨0x90000000, []⟩] := ⟨live_inv _ _ _, rfl, rfl⟩

/-- One block below the threshold: unprimed, and in EVERY_CALL mode. -/
theorem witness_ProduceHoldsBelowPrefill :
    (at' { running 4 512 with used := 2 }).st.running = true ∧
    (at' { running 4 512 with used := 2 }).st.used < (at' { running 4 512 with used := 2 }).params.minPrefill ∧
    (at' { running 4 512 with used := 2 }).st.primed = false ∧
    ({ params with prefillMode := .everyCall } : Params).prefillMode = .everyCall := by decide

theorem witness_ProduceFaultsWhileClosed :
    (at' fresh).st.life = .closed ∧ (at' fresh).st.running = false := by decide

theorem witness_ProduceAnswersEndOfStream :
    (at' (openBlock 4 512)).st.life = .opened ∧ (at' (openBlock 4 512)).st.used = 0 ∧
    (at' (openBlock 4 512)).st.running = false := by decide

/-- At the threshold; stopped with one block left; primed with an empty ring; `head` and `offset` at their largest. -/
theorem witness_ProduceDrainsOldestSamples :
    (at' threeBlocks).st.life = .opened ∧ params.minPrefill ≤ (at' threeBlocks).st.used ∧
    ¬ ((at' threeBlocks).st.used = 0 ∧ (at' threeBlocks).st.running = false) ∧
    (at' { openBlock 4 512 with used := 1 }).st.running = false ∧
    ¬ ((at' { openBlock 4 512 with used := 1 }).st.used = 0 ∧ (at' { openBlock 4 512 with used := 1 }).st.running = false) ∧
    (at' { running 4 512 with primed := true }).st.primed = true ∧ params.prefillMode = .once ∧
    (at' { threeBlocks with head := 3, offset := 127 }).st.head < (at' threeBlocks).st.nSlots.toNat ∧
    (at' { threeBlocks with head := 3, offset := 127 }).st.offset < (at' threeBlocks).st.slotSamples ∧
    383 < min (0xFFFFFFF : Operand).toNat (at' threeBlocks).st.available := by decide +kernel

theorem witness_DrainMovesTheCursor :
    0 < threeBlocks.used ∧ ({ threeBlocks with head := 3 } : Block).head < threeBlocks.nSlots.toNat ∧
    ({ threeBlocks with offset := 127 } : Block).offset < threeBlocks.slotSamples := by decide +kernel

theorem witness_PrefillTimeoutStep :
    (pick .timeout (at' { running 4 512 with consWait := .produce 9 })).nextPick = .timeout ∧
    (at' { running 4 512 with consWait := .produce 9 }).st.consWait = .produce 9 ∧
    ({ params with prefillTimeout := true } : Params).prefillTimeout = true ∧
    (running 4 512).ready { params with prefillTimeout := true } = false ∧ params.prefillTimeout = false := by decide

/-- One slot fewer than the threshold. -/
theorem witness_SmallRingHoldsTheConsumer :
    (at' (running 2 512)).Inv ∧ (at' (running 2 512)).st.life = .opened ∧
    (at' (running 2 512)).st.nSlots.toNat < (at' (running 2 512)).params.minPrefill ∧
    (at' (running 2 512)).st.primed = false ∧ (at' (running 2 512)).st.running = true ∧
    ∃ t, step (pick .consumer (at' (running 2 512))) = .next t :=
  ⟨⟨running_inv 2 512 (by decide) (by decide) (by decide), holdsMatch_of_none rfl rfl⟩, rfl, by decide, rfl, rfl, _, rfl⟩

/-- A run in which a DRV_EXIT with no read loop is served at its first step, and the producer port is picked for ever. -/
def fairRun : Nat → State
  | 0     => issue .producer 0x90000000 [] (at' fresh)
  | n + 1 =>
    ⟨fresh.recordFault .drvProtocol 0x90000000, params,
      { Io.reset with
        openAnswers := [true], prodOut := [Response.fault .drvProtocol], sched := [.producer], draws := n + 1 }⟩

theorem fairRun_isRun : IsRun fairRun
  | 0     => ⟨_, rfl, rfl, rfl, fun p => ⟨[], by cases p <;> rfl⟩, fun p => by cases p <;> rfl, rfl⟩
  | _ + 1 => ⟨_, rfl, rfl, rfl, fun p => ⟨[], by cases p <;> rfl⟩, fun p => by cases p <;> rfl, rfl⟩

theorem fairRun_pick (n : Nat) : (fairRun n).nextPick = .producer := by cases n <;> rfl

theorem fairRun_fair : WeaklyFair fairRun := fun p n h => by
  have h := h (n + 1) (Nat.le_succ n)
  cases p with
  | producer => exact ⟨n, le_rfl, fairRun_pick n⟩
  | host     => cases h
  | consumer => cases h

/-- Each clause: the two stuck states; a disabled and an enabled pick of a port; a host command that stays enabled while the
producer port is picked; a weakly fair run with a command to serve. -/
theorem witness_WaitingPortsTakeNoStep_fairness :
    (State.enabled (pick .consumer (at' { running 4 512 with consWait := .produce 1 })) .consumer = false) ∧
    ((live .producer 0x90000000 []).Inv ∧ (live .producer 0x90000000 []).nextPick = portPick .producer ∧
      (live .producer 0x90000000 []).enabled .producer = true) ∧
    ((pick .producer (live .host 0x50000000 [])).enabled .host = true ∧
      (∃ t, step (pick .producer (live .host 0x50000000 [])) = .next t) ∧
      (pick .producer (live .host 0x50000000 [])).nextPick ≠ portPick .host ∧
      (pick .producer (live .host 0x50000000 [])).nextPick ≠ .reset) ∧
    (IsRun fairRun ∧ WeaklyFair fairRun ∧ (∀ n, (fairRun n).nextPick ≠ .reset) ∧
      (fairRun 0).enabled .producer = true) :=
  ⟨by decide, ⟨live_inv _ _ _, rfl, by decide⟩, ⟨by decide, ⟨_, rfl⟩, by decide, by decide⟩,
    fairRun_isRun, fairRun_fair, fun n => by rw [fairRun_pick]; decide, by decide⟩

theorem witness_WaitingPortsTakeNoStep :
    (pick .host (at' { running 4 512 with running := false, hostWait := .stopJoin })).joinWaits ∧
    (pick .host (at' { running 4 512 with running := false, hostWait := .stopJoin })).nextPick = .host ∧
    (pick .consumer (at' { running 4 512 with consWait := .produce 1 })).prefillWaits ∧
    (pick .consumer (at' { running 4 512 with consWait := .produce 1 })).nextPick = .consumer :=
  ⟨⟨by decide, by decide⟩, rfl, ⟨by decide, by decide⟩, rfl⟩

theorem witness_ConversionIsExact :
    126 ≤ 126 ∧ sint16 0x0000 = 0 ∧ sint16 0x8000 ≠ 0 ∧ sint16 0x7FFF ≠ 0 := by decide

/-- The largest and the smallest exponent. -/
theorem witness_ConversionClosedForm :
    2 ^ 15 ≤ (sint16 0x8000).natAbs ∧ (sint16 0x8000).natAbs < 2 ^ (15 + 1) ∧
    2 ^ 0 ≤ (sint16 0xFFFF).natAbs ∧ (sint16 0xFFFF).natAbs < 2 ^ (0 + 1) := by decide

theorem witness_ConvertReadsItsBytes :
    params.rawEndian = .little ∧ ({ params with rawEndian := .big } : Params).rawEndian = .big := by decide

/-- The last sample of a PRODUCE that empties a ring, and the last sample of a block. -/
theorem witness_LanesAreIndependent :
    (∃ t r z, exec (.produce 128) stopped = .next t ∧ t.io.consOut = r :: stopped.io.consOut ∧
      r.payload[127]? = some z) ∧
    (tagged 3)[4 * 127]? = some 3 ∧ (tagged 3)[4 * 127 + 1]? = some 0 ∧ (tagged 3)[4 * 127 + 2]? = some 127 ∧
    (tagged 3)[4 * 127 + 3]? = some 0 := ⟨⟨_, _, _, rfl, rfl, rfl⟩, by decide +kernel⟩

theorem witness_OutputLayout :
    (⟨false, 2, [⟨1, 2⟩, ⟨3, 4⟩]⟩ : Response).payload[1]? = some ⟨3, 4⟩ ∧ 3 < 4 := by decide

/-- A START while the read loop is active. -/
theorem witness_FaultsArePrecise :
    (live .host 0x40000000 []).Inv ∧ ∃ t, step (live .host 0x40000000 []) = .next t ∧
      t.io.out .host = ⟨true, 5, []⟩ :: (live .host 0x40000000 []).io.out .host :=
  ⟨live_inv _ _ _, _, rfl, by decide⟩

theorem witness_FaultRecordIsSticky :
    (issue .host 0xB0000000 [] (at' { fresh with fault := true, faultCause := 3 })).st.fault = true ∧
    (issue .host 0xB0000000 [] (at' { fresh with fault := true, faultCause := 3 })).nextPick ≠ .reset ∧
    ∃ t, step (issue .host 0xB0000000 [] (at' { fresh with fault := true, faultCause := 3 })) = .next t :=
  ⟨rfl, by decide, _, rfl⟩

theorem witness_OnlyStartBeginsAStream :
    (at' (openBlock 4 512)).st.running = false ∧ ∃ t, step (issue .host 0x40000000 [] (at' (openBlock 4 512))) = .next t ∧
      t.st.running = true ∧ t.st.loopActive = true := ⟨rfl, _, rfl, by decide, by decide⟩

theorem witness_OnlyDrvExitEndsTheLoop :
    (live .producer 0x9000000F []).Inv ∧ (live .producer 0x9000000F []).st.loopActive = true ∧
    ∃ t, step (live .producer 0x9000000F []) = .next t ∧ t.st.loopActive = false :=
  ⟨live_inv _ _ _, rfl, _, rfl, by decide⟩

/-- A CFG_BUFFERS of an open block (V29b). -/
theorem witness_OpenRingIsNeverResized :
    (live .host 0x10000004 []).st.life = .opened ∧ ∃ t, step (live .host 0x10000004 []) = .next t ∧ t.st.life = .opened :=
  ⟨rfl, _, rfl, by decide⟩

/-- An overflow that overwrites B1 with B2: byte 0 changes, and the byte after the slot is outside it. -/
theorem witness_OnlyPushWritesSlots :
    (issue .producer 0x80000200 (tagged 2) full).st.life = .opened ∧
    ∃ t, step (issue .producer 0x80000200 (tagged 2) full) = .next t ∧ t.st.life = .opened ∧
      t.st.storageByte 0 ≠ full.st.storageByte 0 ∧ full.st.slotAddr full.st.tail 0 + full.st.buflen.toNat ≤ 512 :=
  ⟨rfl, _, rfl, rfl, by decide +kernel, by decide +kernel⟩

theorem witness_EachCommandIsAnsweredOnce :
    (live .host 0x70000000 []).Inv ∧ (live .host 0x70000000 []).nextPick ≠ .reset ∧
    ∃ t, step (live .host 0x70000000 []) = .next t ∧ t.io.out .host ≠ (live .host 0x70000000 []).io.out .host :=
  ⟨live_inv _ _ _, by decide, _, rfl, by decide⟩

/-- An OPEN that clears a count, and an overflow that wraps it. -/
theorem witness_OverflowCounterWriters :
    (∃ t, step (issue .host 0x30000000 [] (at' { fresh with ovfCount := 2 })) = .next t ∧ t.st.ovfCount ≠ 2) ∧
    (∃ t, step (issue .producer 0x80000200 (tagged 6) (at' { running 4 512 with used := 4, ovfCount := 0xFFFFFFFF })) =
      .next t ∧ t.st.ovfCount ≠ 0xFFFFFFFF) := ⟨⟨_, rfl, by decide⟩, ⟨_, rfl, by decide +kernel⟩⟩

theorem witness_ParametersNeverChange : ∃ t, step (live .host 0x70000000 []) = .next t := ⟨_, rfl⟩

/-- A push of a payload of the right length. -/
theorem witness_RingIsADropOldestQueue :
    (live .producer 0x80000200 (tagged 1)).Inv ∧ (∃ t, step (live .producer 0x80000200 (tagged 1)) = .next t) ∧
    (live .producer 0x80000200 (tagged 1)).io.prodCmds = [⟨0x80000200, tagged 1⟩] ∧
    (tagged 1).length = (live .producer 0x80000200 (tagged 1)).st.buflen.toNat :=
  ⟨live_inv _ _ _, ⟨_, rfl⟩, rfl, by decide +kernel⟩

/-- A push into an empty ring, a push into a full one, and a PRODUCE that answers. -/
theorem witness_SamplesAreConserved :
    ((live .producer 0x80000200 []).Inv ∧ (live .producer 0x80000200 []).st.running = true ∧
      (live .producer 0x80000200 []).st.skipRem = 0 ∧ ∃ t, exec (.deliver 512) (live .producer 0x80000200 []) = .next t) ∧
    (full.Inv ∧ full.st.running = true ∧ full.st.skipRem = 0 ∧ full.st.used = full.st.nSlots.toNat ∧
      ∃ t, exec (.deliver 512) full = .next t) ∧
    (stopped.Inv ∧ ∃ t r, exec (.produce 1) stopped = .next t ∧ t.io.consOut = r :: stopped.io.consOut ∧
      r.payload.length = 1) :=
  ⟨⟨live_inv _ _ _, rfl, rfl, _, rfl⟩, ⟨full_inv, rfl, rfl, by decide +kernel, _, rfl⟩, ⟨stopped_inv, _, _, rfl, rfl, by decide +kernel⟩⟩

theorem witness_EndOfStreamStaysUntilStart :
    (at' (openBlock 4 512)).st.used = 0 ∧ (at' (openBlock 4 512)).st.running = false ∧
    (∃ t, step (issue .host 0x40000000 [] (at' (openBlock 4 512))) = .next t ∧ t.st.running = true) ∧
    ∃ t, step (issue .host 0x50000000 [] (at' (openBlock 4 512))) = .next t ∧ t.st.life = .opened :=
  ⟨rfl, rfl, ⟨_, rfl, rfl⟩, _, rfl, rfl⟩

/-- States outside the invariant: an active loop with no slots, and a cursor at slot N. -/
theorem witness_StopsOutsideStorage :
    ((at' (running 0 512)).st.loopActive = true ∧ (at' (running 0 512)).st.running = true ∧
      (at' (running 0 512)).st.skipRem = 0 ∧ (at' (running 0 512)).st.nSlots = 0) ∧
    ((at' { openBlock 4 512 with used := 1, head := 4 }).st.life = .opened ∧
      (at' { openBlock 4 512 with used := 1, head := 4 }).st.running = false ∧
      (at' { openBlock 4 512 with used := 1, head := 4 }).st.used ≠ 0 ∧ (1 : Operand) ≠ 0 ∧
      (at' { openBlock 4 512 with used := 1, head := 4 }).st.nSlots.toNat ≤
        (at' { openBlock 4 512 with used := 1, head := 4 }).st.head) ∧
    full.Inv := ⟨by decide, by decide, full_inv⟩

theorem witness_EndedRunTakesNoStep :
    (pick .consumer (at' (openBlock 4 512))).ended ∧ (pick .consumer (at' (openBlock 4 512))).nextPick ≠ .reset :=
  ⟨⟨rfl, rfl, rfl, rfl, rfl, rfl⟩, by decide⟩

theorem witness_FaultedRunNeverEndsWell :
    (pick .host (at' { fresh with fault := true, faultCause := 3 })).faulted ∧
    (pick .host (at' { fresh with fault := true, faultCause := 3 })).nextPick ≠ .reset ∧
    ∃ t, step (pick .host (at' { fresh with fault := true, faultCause := 3 })) = .next t ∧ t.ended :=
  ⟨rfl, by decide, _, rfl, rfl, rfl, rfl, rfl, rfl, rfl⟩

end Sys2Proof.Tests
end

section
/-! PROOFS. R5, R42: the configuration record is a parameter of the step, so neither a command nor any other step writes
it. -/

namespace Sys2Proof.Machine

@[simp] theorem State.completeStop_params (s : State) : s.completeStop.params = s.params := rfl
@[simp] theorem State.completeClose_params (s : State) : s.completeClose.params = s.params := rfl
@[simp] theorem State.hardwareReset_params (s : State) : s.hardwareReset.params = s.params := rfl

/-- A command answers, faults or holds, and none of these writes the record. -/
theorem ExecCase.params_eq {s t : State} {i : Instr} (he : ExecCase s i t) : t.params = s.params := by
  cases he <;> simp

theorem StepCase.params_eq {s t : State} (h : StepCase s t) : t.params = s.params := by
  cases h with
  | ran _ _ _ _ _ _ _ _ _ _ he => simpa using he.params_eq
  | retried _ _ _ _ he => simpa using he.params_eq
  | idle | rejected | stopJoined | closeJoined | timedOut | reset => simp

/-- Settles O54, by the case analysis of a step. -/
theorem parametersNeverChange : Obligations.ParametersNeverChange :=
  fun _ _ h => (step_cases h).params_eq

end Sys2Proof.Machine
end

section
/-! PROOFS. The fields that a drain, a join and a hardware reset leave or set, one lemma each. -/

namespace Sys2Proof.Machine

section Drain

variable (st : Block) (p : Params) (want : Operand)

@[simp] theorem Block.drain_life : (st.drain p want).1.life = st.life := by rw [Block.drain_frame]
@[simp] theorem Block.drain_running : (st.drain p want).1.running = st.running := by rw [Block.drain_frame]
@[simp] theorem Block.drain_loopActive : (st.drain p want).1.loopActive = st.loopActive := by rw [Block.drain_frame]
@[simp] theorem Block.drain_nSlots : (st.drain p want).1.nSlots = st.nSlots := by rw [Block.drain_frame]
@[simp] theorem Block.drain_buflen : (st.drain p want).1.buflen = st.buflen := by rw [Block.drain_frame]
@[simp] theorem Block.drain_slots : (st.drain p want).1.slots = st.slots := by rw [Block.drain_frame]
@[simp] theorem Block.drain_ovfCount : (st.drain p want).1.ovfCount = st.ovfCount := by rw [Block.drain_frame]
@[simp] theorem Block.drain_fault : (st.drain p want).1.fault = st.fault := by rw [Block.drain_frame]
@[simp] theorem Block.drain_faultCause : (st.drain p want).1.faultCause = st.faultCause := by rw [Block.drain_frame]
@[simp] theorem Block.drain_faultInfo : (st.drain p want).1.faultInfo = st.faultInfo := by rw [Block.drain_frame]
@[simp] theorem Block.drain_hostWait : (st.drain p want).1.hostWait = st.hostWait := by rw [Block.drain_frame]
@[simp] theorem Block.drain_consWait : (st.drain p want).1.consWait = st.consWait := by rw [Block.drain_frame]

end Drain

variable (s : State)

@[simp] theorem State.completeStop_st : s.completeStop.st = s.st.joined := rfl
@[simp] theorem State.completeStop_io : s.completeStop.io = s.io.answer .host (Response.ok 0) := rfl
@[simp] theorem State.completeClose_st : s.completeClose.st = { s.st.free with hostWait := .none } := rfl
@[simp] theorem State.completeClose_io : s.completeClose.io = s.io.answer .host (Response.ok 0) := rfl
@[simp] theorem State.hardwareReset_st : s.hardwareReset.st = Block.reset s.params := rfl
@[simp] theorem State.hardwareReset_out (p : Port) : s.hardwareReset.io.out p = s.io.out p := by cases p <;> rfl

end Sys2Proof.Machine
end

section
/-! PROOFS. R43, R180: the invariant holds at reset, every step keeps it, and from a state of the invariant no step stops
the model. -/

namespace Sys2Proof.Machine

variable {p : Params} {st : Block}

/-! ### Updates of `st` that keep the block's invariant -/

/-- R25, R26: the default slot count and slot length are legal. -/
theorem Params.wf_defaults (hp : p.wf) :
    p.nDefault ≠ 0 ∧ p.buflenDefault ≠ 0 ∧ p.buflenDefault.toNat % p.buflenGranule = 0 := by
  obtain ⟨hn, -, -, hb, hg, -⟩ := hp
  exact ⟨hn, hb, hg⟩

theorem legalBuffers_ne_zero (hp : p.wf) (n : Operand) : legalBuffers p n ≠ 0 := by
  unfold legalBuffers
  split
  · exact (Params.wf_defaults hp).1
  · assumption

theorem legalBuflen_legal (hp : p.wf) (b : Operand) :
    legalBuflen p b ≠ 0 ∧ (legalBuflen p b).toNat % p.buflenGranule = 0 := by
  unfold legalBuflen
  split
  · exact (Params.wf_defaults hp).2
  · next h => exact ⟨fun h0 => h (.inl h0), not_not.1 fun h1 => h (.inr h1)⟩

theorem Block.Inv.reset (hp : p.wf) : Block.Inv p (Block.reset p) where
  paramsWf := hp
  cfgBuffersLegal := (Params.wf_defaults hp).1
  cfgBuflenLegal := (Params.wf_defaults hp).2
  closedIsEmpty _ := ⟨rfl, rfl, rfl, rfl, rfl, rfl, rfl, rfl, rfl⟩
  openGeometry h := nomatch h
  cursorOfEmpty _ := rfl
  runningHasLoop h := nomatch h
  stoppingWaits h := nomatch h
  filledSlotsWritten i hi := absurd hi (Nat.not_lt_zero i)
  skipBounded := Nat.zero_le _
  cellsWf := Memory.wf_empty
  cellsInside _ hc := absurd hc List.not_mem_nil

theorem Block.Inv.not_running (h : Block.Inv p st) (ha : st.loopActive = false) : st.running = false := by
  rcases hr : st.running
  · rfl
  · simp [h.runningHasLoop hr] at ha

theorem Block.Inv.withConsWait (h : Block.Inv p st) (cw : ConsWait) : Block.Inv p { st with consWait := cw } :=
  h.update h.cfgBuffersLegal h.cfgBuflenLegal rfl rfl rfl rfl rfl rfl rfl (.inl rfl) h.skipBounded
    (.inl ⟨rfl, rfl, rfl, rfl⟩)

theorem Block.Inv.skip (h : Block.Inv p st) : Block.Inv p { st with skipRem := st.skipRem - 1 } :=
  h.update h.cfgBuffersLegal h.cfgBuflenLegal rfl rfl rfl rfl rfl rfl rfl (.inl rfl)
    ((Nat.sub_le _ _).trans h.skipBounded) (.inl ⟨rfl, rfl, rfl, rfl⟩)

theorem Block.Inv.allocate (h : Block.Inv p st) (drawn : Nat) : Block.Inv p (st.allocate drawn) :=
  h.fresh rfl rfl rfl rfl rfl (.inr ⟨rfl, h.legalConfig⟩) rfl (Nat.zero_le _) List.Pairwise.nil
    fun _ hc => absurd hc List.not_mem_nil

theorem Block.Inv.beginStream (h : Block.Inv p st) (hl : st.life = .opened) : Block.Inv p (st.beginStream p.skipK) := by
  obtain ⟨hn, hb, hm, -⟩ := h.openGeometry hl
  exact h.fresh rfl rfl rfl rfl rfl (.inr ⟨hl, hn, hb, hm⟩) rfl le_rfl h.cellsWf h.cellsInside

theorem Block.Inv.cancel (h : Block.Inv p st) {w : HostWait} (hw : w ≠ .none) : Block.Inv p (st.cancel w) :=
  h.update h.cfgBuffersLegal h.cfgBuflenLegal rfl rfl rfl rfl rfl rfl rfl (.inl rfl) h.skipBounded
    (.inr ⟨rfl, fun ha => ⟨ha, rfl, hw⟩⟩)

theorem Block.Inv.joined (h : Block.Inv p st) (ha : st.loopActive = false) : Block.Inv p st.joined :=
  h.update h.cfgBuffersLegal h.cfgBuflenLegal rfl rfl rfl rfl rfl rfl rfl (.inl rfl) h.skipBounded
    (.inr ⟨h.not_running ha, fun ht => by simp [ha] at ht⟩)

/-- The freed block keeps the invariant, whatever the host port's hold becomes (R106, R107). -/
theorem Block.Inv.free (h : Block.Inv p st) (ha : st.loopActive = false) (w : HostWait) :
    Block.Inv p { st.free with hostWait := w } :=
  h.fresh rfl rfl rfl rfl rfl (.inl ⟨rfl, rfl, rfl, rfl, ha, rfl, rfl⟩) ha.symm (Nat.zero_le _) Memory.wf_empty
    fun _ hc => absurd hc List.not_mem_nil

theorem Block.Inv.loopExit (h : Block.Inv p st) (x : Operand) : Block.Inv p (st.loopExit x) :=
  h.update h.cfgBuffersLegal h.cfgBuflenLegal rfl rfl rfl rfl rfl rfl rfl (.inl rfl) h.skipBounded
    (.inr ⟨rfl, fun ht => nomatch ht⟩)

/-! ### Every step keeps the invariant -/

/-- Every command keeps the block's invariant. -/
theorem ExecCase.block_inv {s t : State} {i : Instr} (he : ExecCase s i t) (h : s.st.Inv s.params) :
    t.st.Inv s.params := by
  cases he with
  | cfgBuffers n =>
    exact h.update (legalBuffers_ne_zero h.paramsWf n) h.cfgBuflenLegal rfl rfl rfl rfl rfl rfl rfl (.inl rfl)
      h.skipBounded (.inl ⟨rfl, rfl, rfl, rfl⟩)
  | cfgBuflen b =>
    exact h.update h.cfgBuffersLegal (legalBuflen_legal h.paramsWf b) rfl rfl rfl rfl rfl rfl rfl (.inl rfl)
      h.skipBounded (.inl ⟨rfl, rfl, rfl, rfl⟩)
  | alreadyOpen | startClosed | startBusy | badReg | deliverNoLoop | deliverBadLength | exitNoLoop =>
    exact h.recordFault _ _
  | openFailed | stopIdle | closeIdle | readReg | deliverCancelled => exact h
  | opened => exact h.allocate _
  | started hl => exact h.beginStream hl
  | stopHolds => exact h.cancel (by decide)
  | closeHolds => exact h.cancel (by decide)
  | closeFrees _ ha => exact h.free ha s.st.hostWait
  | deliverSkipped => exact h.skip
  | delivered len ha hb hr => exact h.push ha hr (by simp [hb])
  | exited x => exact h.loopExit x
  | produceHolds => exact h.withConsWait _
  | produceClosed => exact (h.withConsWait _).recordFault _ _
  | endOfStream => exact h.withConsWait _
  | drained want hr hl => exact ((h.withConsWait .none).prime hl).drain (by simpa using hl)

/-- Every step keeps the block's invariant. -/
theorem StepCase.block_inv {s t : State} (hs : StepCase s t) (h : s.st.Inv s.params) : t.st.Inv s.params := by
  cases hs with
  | idle => exact h
  | ran _ _ _ _ _ _ _ _ _ _ he => exact he.block_inv h
  | rejected => exact h.recordFault _ _
  | retried _ _ _ _ he => exact he.block_inv h
  | stopJoined _ _ ha => exact h.joined ha
  | closeJoined _ _ ha => exact h.free ha .none
  | timedOut => exact h.withConsWait _
  | reset => exact .reset h.paramsWf

/-- A port whose hold ended, or kept its hold and its stream, still holds its current command. -/
theorem State.HoldsMatch.of_ports {s t : State} (h : s.HoldsMatch)
    (hh : t.st.hostWait = .none ∨ (t.st.hostWait = s.st.hostWait ∧ t.io.cmds .host = s.io.cmds .host))
    (hc : t.st.consWait = .none ∨ (t.st.consWait = s.st.consWait ∧ t.io.cmds .consumer = s.io.cmds .consumer)) :
    t.HoldsMatch where
  stopHeld hw := by
    rcases hh with hn | ⟨hk, hs⟩
    · simp [hn] at hw
    · obtain ⟨c, rest, hc, hword⟩ := h.stopHeld (hk ▸ hw)
      exact ⟨c, rest, hs.trans hc, hword⟩
  closeHeld hw := by
    rcases hh with hn | ⟨hk, hs⟩
    · simp [hn] at hw
    · obtain ⟨c, rest, hc, hword⟩ := h.closeHeld (hk ▸ hw)
      exact ⟨c, rest, hs.trans hc, hword⟩
  produceHeld want hw := by
    rcases hc with hn | ⟨hk, hs⟩
    · simp [hn] at hw
    · obtain ⟨c, rest, hc, hword⟩ := h.produceHeld want (hk ▸ hw)
      exact ⟨c, rest, hs.trans hc, hword⟩

/-- A command that is its port's current one leaves holds that match: it answers and its port is free after it, or its
port holds it. -/
theorem ExecCase.holdsMatch {s t : State} {i : Instr} {c : Command} {cs : List Command} (he : ExecCase s i t)
    (h : s.HoldsMatch) (hf : i.port = .host → s.st.hostWait = .none) (hc : s.io.cmds i.port = c :: cs)
    (hw : encode i = c.word) : t.HoldsMatch := by
  rcases he.ports with ⟨r, -, -, hother, hh, hcw⟩ | ⟨hio, hold⟩
  · apply h.of_ports
    · by_cases hp : i.port = .host
      · exact .inl (hh.trans (hf hp))
      · exact .inr ⟨hh, (hother .host (Ne.symm hp)).2⟩
    · by_cases hp : i.port = .consumer
      · exact .inl (by simpa [hp] using hcw)
      · exact .inr ⟨by simpa [hp] using hcw, (hother .consumer (Ne.symm hp)).2⟩
  · have hkept : s.io = t.io := hio.symm
    rcases hold with ⟨rfl, hh, hcw⟩ | ⟨rfl, hh, hcw⟩ | ⟨want, rfl, hcw, hh⟩
    · exact ⟨fun _ => ⟨c, cs, hkept ▸ hc, hw.symm⟩, fun hn => by simp [hh] at hn,
        fun w hn => hkept ▸ h.produceHeld w (hcw ▸ hn)⟩
    · exact ⟨fun hn => by simp [hh] at hn, fun _ => ⟨c, cs, hkept ▸ hc, hw.symm⟩,
        fun w hn => hkept ▸ h.produceHeld w (hcw ▸ hn)⟩
    · refine ⟨fun hn => hkept ▸ h.stopHeld (hh ▸ hn), fun hn => hkept ▸ h.closeHeld (hh ▸ hn), fun w hn => ?_⟩
      obtain rfl : want = w := by simpa [hcw] using hn
      exact ⟨c, cs, hkept ▸ hc, hw.symm⟩

/-- Every step keeps the holds those of the ports' current commands (R38). -/
theorem StepCase.holdsMatch {s t : State} (hs : StepCase s t) (h : s.HoldsMatch) : t.HoldsMatch := by
  have htick : s.tick.HoldsMatch := h.of_ports (.inr ⟨rfl, rfl⟩) (.inr ⟨rfl, rfl⟩)
  cases hs with
  | idle => exact htick
  | ran p c cs i t hp hf hc hw hi he =>
    subst hi
    exact he.holdsMatch htick (fun hh => by rw [hh] at hf; exact hf) (by simpa using hc) hw
  | rejected p c cs r hp hf hc hd =>
    apply h.of_ports <;> cases p
    · exact .inl (by simpa [PortFree] using hf)
    · exact .inr (by simp)
    · exact .inr (by simp)
    · exact .inr (by simp)
    · exact .inr (by simp)
    · exact .inl (by simpa [PortFree] using hf)
  | retried want t hp hw he =>
    obtain ⟨c, cs, hc, hword⟩ := h.produceHeld want hw
    exact he.holdsMatch htick nofun hc hword.symm
  | stopJoined => exact h.of_ports (.inl rfl) (.inr (by simp))
  | closeJoined => exact h.of_ports (.inl rfl) (.inr (by simp))
  | timedOut => exact h.of_ports (.inr (by simp)) (.inl rfl)
  | reset => exact h.of_ports (.inl rfl) (.inl rfl)

/-- Settles O9: a step keeps the block's invariant and the holds. -/
theorem stepKeepsInvariant : Obligations.StepKeepsInvariant := by
  intro s t h hstep
  have hs := step_cases hstep
  exact ⟨hs.params_eq ▸ hs.block_inv h.block, hs.holdsMatch h.holds⟩

/-- Settles O8: this hardware's parameters meet R5's constraints, and nothing holds at reset. -/
theorem resetMeetsInvariant : Obligations.ResetMeetsInvariant where
  block := .reset (by decide)
  holds := ⟨nofun, nofun, nofun⟩

/-! ### From a state of the invariant no step stops the model -/

/-- On an open block of the invariant PUSH has a slot at `tail` (R43(b), R50). -/
theorem Block.Inv.tail_exists (h : Block.Inv p st) (hl : st.life = .opened) : st.slotExists st.tail = true := by
  obtain ⟨hn, -⟩ := h.openGeometry hl
  exact decide_eq_true (Nat.mod_lt _ hn)

/-- On an open block of the invariant the drain's first view is of storage that exists (R43(b), R50). -/
theorem Block.Inv.view_exists (h : Block.Inv p st) (hl : st.life = .opened) (want : Operand) :
    st.viewExists want = true := by
  obtain ⟨-, -, -, hh, -, ho⟩ := h.openGeometry hl
  simp [Block.viewExists, Block.slotExists, hh, ho]

theorem execDeliver_next {s : State} (h : s.st.Inv s.params) (len : Operand) : ∃ t, execDeliver len s = .next t := by
  unfold execDeliver
  split
  · exact ⟨_, rfl⟩
  · next ha =>
    have hl := h.opened_of_loopActive (by simpa using ha)
    simp only [State.deliverPush, h.tail_exists hl, if_true]
    split_ifs <;> exact ⟨_, rfl⟩

theorem execProduce_next {s : State} (h : s.st.Inv s.params) (want : Operand) : ∃ t, execProduce want s = .next t := by
  have hv := (h.withConsWait .none).view_exists (want := want)
  unfold execProduce State.produceReady
  split
  · split
    · exact ⟨_, rfl⟩
    · next hl =>
      simp only [State.withConsWait_st, hv hl, if_true]
      split <;> exact ⟨_, rfl⟩
  · exact ⟨_, rfl⟩

/-- Every command answers a next state: only DELIVER and PRODUCE have a stop to rule out. -/
theorem exec_next {s : State} (h : s.st.Inv s.params) (i : Instr) : ∃ t, exec i s = .next t := by
  cases i with
  | cfgBuffers | cfgBuflen => exact ⟨_, rfl⟩
  | openDevice => simp only [exec, execOpenDevice]; split <;> exact ⟨_, rfl⟩
  | start =>
    simp only [exec, execStart]
    split
    · exact ⟨_, rfl⟩
    · split <;> exact ⟨_, rfl⟩
  | stop => simp only [exec, execStop]; split <;> exact ⟨_, rfl⟩
  | close =>
    simp only [exec, execClose]
    split
    · exact ⟨_, rfl⟩
    · split <;> exact ⟨_, rfl⟩
  | readReg => simp only [exec, execReadReg]; split <;> exact ⟨_, rfl⟩
  | deliver len => exact execDeliver_next h len
  | drvExit => simp only [exec, execDrvExit]; split <;> exact ⟨_, rfl⟩
  | produce want => exact execProduce_next h want

theorem commandStep_next {s : State} (h : s.st.Inv s.params) (p : Port) : ∃ t, s.commandStep p = .next t := by
  unfold State.commandStep
  split
  · exact ⟨_, rfl⟩
  · split
    · exact exec_next h _
    · exact ⟨_, rfl⟩

theorem step_next {s : State} (h : s.st.Inv s.params) : ∃ t, step s = .next t := by
  have ht : s.tick.st.Inv s.tick.params := h
  unfold step State.pickStep
  split
  · unfold State.hostStep
    split
    · exact commandStep_next ht .host
    · exact ⟨_, rfl⟩
    · exact ⟨_, rfl⟩
  · exact commandStep_next ht .producer
  · unfold State.consumerStep
    split
    · exact commandStep_next ht .consumer
    · exact exec_next ht _
  · exact ⟨_, rfl⟩
  · exact ⟨_, rfl⟩

/-- Settles O10: a step answers, and it keeps the invariant. -/
theorem invariantStatesKeepRunning : Obligations.InvariantStatesKeepRunning := by
  intro s h
  obtain ⟨t, ht⟩ := step_next h.block
  exact ⟨t, ht, stepKeepsInvariant s t h ht⟩

/-- A PUSH with no slot in the ring stops the model (log 7). -/
theorem execDeliver_fault {s : State} (ha : s.st.loopActive = true) (hr : s.st.running = true)
    (hk : s.st.skipRem = 0) (hn : s.st.nSlots = 0) :
    execDeliver s.st.buflen s = .fault .slotOutsideStorage := by
  simp [execDeliver, ha, hr, hk, State.deliverPush, Block.slotExists, hn]

/-- A drain with `head` outside the ring stops the model (log 7). -/
theorem execProduce_fault {s : State} {want : Operand} (hl : s.st.life = .opened) (hr : s.st.running = false)
    (hu : s.st.used ≠ 0) (hw : want ≠ 0) (hh : s.st.nSlots.toNat ≤ s.st.head) :
    execProduce want s = .fault .slotOutsideStorage := by
  have hready : s.st.ready s.params = true := Block.ready_iff.2 (.inl hr)
  have hview : s.st.viewExists want ≠ true := by
    simp [Block.viewExists, Block.slotExists, hu, hh, show ¬ want = 0#28 from hw]
  unfold execProduce State.produceReady
  rw [if_pos hready]
  split
  · next hc => exact absurd (hl.symm.trans hc) (by decide)
  · rw [if_neg fun he => hu he.1]
    exact if_neg hview

/-- Settles O58. -/
theorem stopsOutsideStorage : Obligations.StopsOutsideStorage :=
  ⟨fun _ => execDeliver_fault, fun _ _ => execProduce_fault, fun i _ h => exec_next h.block i⟩

end Sys2Proof.Machine
end

section
/-! PROOFS. Rules of the whole machine over one step: what writes slot storage, the geometry, the stream's flags, the
overflow counter and the fault record. Each is first a fact about a command (`ExecCase`), then about a step (`StepCase`). -/

namespace Sys2Proof.Machine

variable {s t : State} {i : Instr}

/-! ### Slot storage and the geometry (R27, R28, R50, R54) -/

/-- Every command keeps the canonical form of the written bytes: OPEN and CLOSE write none, and only a PUSH adds some. -/
theorem ExecCase.cells_wf (he : ExecCase s i t) (h : Memory.wf s.st.slots.cells) : Memory.wf t.st.slots.cells := by
  cases he with
  | opened => exact List.Pairwise.nil
  | closeFrees => exact Memory.wf_empty
  | delivered => simpa using Memory.wf_writeBlock h _ _
  | _ => simpa using h

/-- Settles O11. -/
theorem stepKeepsStorageCanonical : Obligations.StepKeepsStorageCanonical := by
  intro s t h hstep
  cases step_cases hstep with
  | ran _ _ _ _ _ _ _ _ _ _ he => exact he.cells_wf h
  | retried _ _ _ _ he => exact he.cells_wf h
  | closeJoined | reset => exact Memory.wf_empty
  | idle | rejected | stopJoined | timedOut => simpa using h

/-- A command of the step from `s` to `t` that pushes its block into the slot at `tail`. -/
structure Pushes (s t : State) (i : Instr) : Prop where
  command : i = .deliver s.st.buflen
  running : s.st.running = true
  skipped : s.st.skipRem = 0
  written : t.st.slots = (s.st.slotWrite s.st.tail (s.deliveredPayload s.st.buflen)).slots

/-- The geometry stays while the block is open, and so does the storage but for a push. -/
theorem ExecCase.open_storage (he : ExecCase s i t) (hs : s.st.life = .opened) (ht : t.st.life = .opened) :
    t.st.nSlots = s.st.nSlots ∧ t.st.buflen = s.st.buflen ∧ (t.st.slots = s.st.slots ∨ Pushes s t i) := by
  cases he with
  | opened hl => simp [hs] at hl
  | closeFrees => simp at ht
  | delivered len ha hb hr hk =>
    subst hb
    exact ⟨by simp, by simp, .inr ⟨rfl, hr, hk, by simp⟩⟩
  | _ => simp

/-- What `ExecCase.open_storage` says, of a step: the push is the producer port's current command. -/
theorem StepCase.open_storage (h : StepCase s t) (hs : s.st.life = .opened) (ht : t.st.life = .opened) :
    t.st.nSlots = s.st.nSlots ∧ t.st.buflen = s.st.buflen ∧
      (t.st.slots = s.st.slots ∨
        Pushes s.tick t (.deliver s.st.buflen) ∧ s.nextPick = .producer ∧
          ∃ c cs, s.io.prodCmds = c :: cs ∧ c.word = encode (.deliver s.st.buflen)) := by
  cases h with
  | ran p c cs i t hp hf hc hw hi he =>
    obtain ⟨hn, hb, hsame | hpush⟩ := he.open_storage hs ht
    · exact ⟨hn, hb, .inl hsame⟩
    · obtain rfl : i = .deliver s.st.buflen := hpush.command
      subst hi
      exact ⟨hn, hb, .inr ⟨hpush, hp, c, cs, hc, hw.symm⟩⟩
  | retried want t hp hw he =>
    obtain ⟨hn, hb, hsame | hpush⟩ := he.open_storage hs ht
    · exact ⟨hn, hb, .inl hsame⟩
    · exact nomatch hpush.command
  | closeJoined | reset => exact nomatch ht
  | idle | rejected | stopJoined | timedOut => simp

/-- Settles O50. -/
theorem openRingIsNeverResized : Obligations.OpenRingIsNeverResized := by
  intro s t hstep hs ht
  obtain ⟨hn, hb, -⟩ := (step_cases hstep).open_storage hs ht
  exact ⟨hn, hb⟩

/-- A byte outside the slot at `tail` reads after a push as before it (R54, R122). -/
theorem Pushes.storageByte_outside (h : Pushes s t i) {a : Nat}
    (ha : a < s.st.slotAddr s.st.tail 0 ∨ s.st.slotAddr s.st.tail 0 + s.st.buflen.toNat ≤ a) :
    t.st.storageByte a = s.st.storageByte a := by
  rw [Block.storageByte_congr h.written]
  exact Block.storageByte_slotWrite_outside _ (by simpa using ha)

/-- Settles O51. -/
theorem onlyPushWritesSlots : Obligations.OnlyPushWritesSlots := by
  intro s t hstep hs ht
  obtain ⟨-, -, hsame | ⟨hpush, hp, c, cs, hc, hw⟩⟩ := (step_cases hstep).open_storage hs ht
  · have hsame := Block.storageByte_congr hsame
    exact ⟨fun a _ => hsame a, fun a hne => absurd (hsame a) hne⟩
  · exact ⟨fun a ha => hpush.storageByte_outside ha, fun _ _ => ⟨hp, hpush.running, hpush.skipped, c, cs, hc, hw⟩⟩

/-! ### The stream's flags (R22, R23) -/

/-- No command but a START sets `running` or `loop_active`. -/
theorem ExecCase.no_flag_set (he : ExecCase s i t) (hi : i ≠ .start) :
    (t.st.running = true → s.st.running = true) ∧ (t.st.loopActive = true → s.st.loopActive = true) := by
  cases he with
  | startClosed | startBusy | started => exact absurd rfl hi
  | _ => simp

/-- A step that is not the host port's START sets neither flag. -/
theorem StepCase.start_or_no_flag_set (h : StepCase s t) :
    (s.nextPick = .host ∧ s.st.hostWait = .none ∧ ∃ c cs, s.io.hostCmds = c :: cs ∧ c.word = encode .start) ∨
    ((t.st.running = true → s.st.running = true) ∧ (t.st.loopActive = true → s.st.loopActive = true)) := by
  cases h with
  | ran p c cs i t hp hf hc hw hi he =>
    by_cases hstart : i = .start
    · subst hstart hi
      exact .inl ⟨hp, hf, c, cs, hc, hw.symm⟩
    · exact .inr (he.no_flag_set hstart)
  | retried want t hp hw he => exact .inr (he.no_flag_set nofun)
  | reset => exact .inr ⟨nofun, nofun⟩
  | idle | rejected | stopJoined | closeJoined | timedOut => exact .inr (by simp)

/-- Settles O48. -/
theorem onlyStartBeginsAStream : Obligations.OnlyStartBeginsAStream := by
  intro s t hstep hset
  rcases (step_cases hstep).start_or_no_flag_set with hstart | ⟨hr, hl⟩
  · exact hstart
  · rcases hset with ⟨h0, h1⟩ | ⟨h0, h1⟩
    · simp [hr h1] at h0
    · simp [hl h1] at h0

/-- On an open block no command but a DRV_EXIT clears `loop_active`. -/
theorem ExecCase.loop_kept (he : ExecCase s i t) (hl : s.st.life = .opened) (ha : s.st.loopActive = true) :
    t.st.loopActive = true ∨ ∃ x, i = .drvExit x := by
  cases he with
  | opened hc => simp [hl] at hc
  | exited x => exact .inr ⟨x, rfl⟩
  | _ => exact .inl (by simp [ha])

/-- Settles O49: the invariant shuts out the active loop of a closed block that an OPEN would clear. -/
theorem onlyDrvExitEndsTheLoop : Obligations.OnlyDrvExitEndsTheLoop := by
  intro s t hinv hstep ha hoff
  have hl := hinv.block.opened_of_loopActive ha
  cases step_cases hstep with
  | ran p c cs i t hp hf hc hw hi he =>
    rcases he.loop_kept hl ha with hon | ⟨x, rfl⟩
    · simp [hoff] at hon
    · subst hi
      exact .inr ⟨hp, c, cs, x, hc, hw.symm⟩
  | retried want t hp hw he =>
    rcases he.loop_kept hl ha with hon | ⟨x, hx⟩
    · simp [hoff] at hon
    · exact nomatch hx
  | reset hp => exact .inl hp
  | idle | rejected | stopJoined | closeJoined | timedOut => simp [ha] at hoff

/-! ### The overflow counter (R35, R189) -/

theorem Block.push_ovfCount (st : Block) (bytes : List Byte) :
    (st.push bytes).ovfCount = if st.used = st.nSlots.toNat then st.ovfCount + 1 else st.ovfCount := by
  unfold Block.push
  split <;> rfl

/-- A command changes the counter only where it opens the block or overflows the ring. -/
theorem ExecCase.ovfCount_changes (he : ExecCase s i t) (hne : t.st.ovfCount ≠ s.st.ovfCount) :
    (i = .openDevice ∧ s.st.life = .closed ∧ t.st.life = .opened ∧ t.st.ovfCount = 0) ∨
    (i.port = .producer ∧ s.st.used = s.st.nSlots.toNat ∧ s.st.running = true ∧ s.st.skipRem = 0 ∧
      t.st.ovfCount = s.st.ovfCount + 1) := by
  cases he with
  | opened hl => exact .inl ⟨rfl, hl, rfl, rfl⟩
  | delivered len ha hb hr hk =>
    simp only [State.respond_st, Block.push_ovfCount] at hne ⊢
    split at hne
    · next hfull => exact .inr ⟨rfl, hfull, hr, hk, if_pos hfull⟩
    · exact absurd rfl hne
  | _ => simp at hne

/-- Settles O53. -/
theorem overflowCounterWriters : Obligations.OverflowCounterWriters := by
  intro s t hstep hne
  cases step_cases hstep with
  | ran p c cs i t hp hf hc hw hi he =>
    subst hi
    rcases he.ovfCount_changes hne with ⟨rfl, hl, ht, h0⟩ | ⟨hprod, hfull, hr, hk, h1⟩
    · exact .inl ⟨h0, .inr ⟨hp, hl, ht⟩⟩
    · rw [hprod] at hp
      exact .inr ⟨by simp [h1, BitVec.toNat_add], hp, hfull, hr, hk⟩
  | retried want t hp hw he =>
    rcases he.ovfCount_changes hne with ⟨hi, -⟩ | ⟨hi, -⟩ <;> exact nomatch hi
  | reset hp => exact .inl ⟨rfl, .inl hp⟩
  | idle | rejected | stopJoined | closeJoined | timedOut => simp at hne

/-! ### The fault record (R37, R181, R185) -/

/-- `t` holds the fault record of `s`. -/
def SameRecord (s t : State) : Prop :=
  t.st.fault = true ∧ t.st.faultCause = s.st.faultCause ∧ t.st.faultInfo = s.st.faultInfo

/-- No command changes a recorded fault: a second fault leaves the first one's record. -/
theorem ExecCase.sameRecord (he : ExecCase s i t) (hf : s.st.fault = true) : SameRecord s t := by
  cases he <;> simp [SameRecord, hf]

/-- Settles O47. -/
theorem faultRecordIsSticky : Obligations.FaultRecordIsSticky := by
  intro s t hstep hpick hf
  cases step_cases hstep with
  | ran _ _ _ _ _ _ _ _ _ _ he => exact he.sameRecord hf
  | retried _ _ _ _ he => exact he.sameRecord hf
  | reset hp => exact absurd hp hpick
  | idle | rejected | stopJoined | closeJoined | timedOut => simp [hf]

end Sys2Proof.Machine
end

section
/-! PROOFS. R38, R70, R77, R82: what one step does to the ports: which command it runs, and that it answers one command of
one port or none. -/

namespace Sys2Proof.Machine

variable {s t : State}

/-! ### The command that a step runs -/

/-- A free port's step runs the command that its current word decodes to, or raises the fault of the failing check. -/
theorem step_decodes {p : Port} {c : Command} {cs : List Command} (hp : s.nextPick = portPick p) (hf : PortFree s p)
    (hc : s.io.cmds p = c :: cs) :
    (∀ i, decodeOn p c.word = .instr i → step s = exec i s.tick) ∧
    (∀ r, decodeOn p c.word = .reject r → ∃ t, step s = .next t ∧ Faulted s.tick t p (rejectCause r) c.word) := by
  rw [step_of_command hp hf]
  rw [← State.tick_cmds] at hc
  exact ⟨fun i hd => commandStep_of_instr hc hd,
    fun r hd => ⟨_, commandStep_of_reject hc hd, faulted_raiseFault s.tick p _ _⟩⟩

/-- Settles O12. -/
theorem stepRunsDecodedCommand : Obligations.StepRunsDecodedCommand := by
  refine ⟨?_, ?_, ?_, fun s => ⟨rfl, rfl, rfl⟩, by decide, by decide⟩
  · exact fun s c cs hp hf hc => step_decodes (p := .host) hp hf hc
  · exact fun s c cs hp hc => step_decodes (p := .producer) hp trivial hc
  · exact fun s c cs hp hf hc => step_decodes (p := .consumer) hp hf hc

theorem commandStep_of_no_command {p : Port} (hc : s.io.cmds p = []) : s.commandStep p = .next s := by
  simp only [State.commandStep, hc]

/-- A free port without a command takes no step (log 10). -/
theorem step_of_no_command {p : Port} (hp : s.nextPick = portPick p) (hf : PortFree s p) (hc : s.io.cmds p = []) :
    step s = .next s.tick := by
  rw [step_of_command hp hf]
  exact commandStep_of_no_command (by simpa using hc)

/-- Settles O59: each port is free and has no command, and no PRODUCE holds that could time out. -/
theorem endedRunTakesNoStep : Obligations.EndedRunTakesNoStep := by
  rintro s ⟨hhost, hcons, -, hhostCmds, hprodCmds, hconsCmds⟩ hreset
  rcases hp : s.nextPick
  · exact step_of_no_command (p := .host) hp hhost hhostCmds
  · exact step_of_no_command (p := .producer) hp trivial hprodCmds
  · exact step_of_no_command (p := .consumer) hp hcons hconsCmds
  · simp [step, hp, State.pickStep, State.prefillTimeout, hcons]
  · exact absurd hp hreset

/-! ### One answer of one port -/

/-- Port `p` keeps its stream and its responses. -/
def PortKept (s t : State) (p : Port) : Prop := t.io.out p = s.io.out p ∧ t.io.cmds p = s.io.cmds p

/-- Port `p` answers once, and its first command leaves its stream. -/
def PortAnswered (s t : State) (p : Port) : Prop :=
  ∃ r, t.io.out p = r :: s.io.out p ∧ t.io.cmds p = (s.io.cmds p).tail

/-- The port whose step a pick offers; the timeout step is of the consumer port's PRODUCE (R147). -/
def PickOfPort (k : Pick) (p : Port) : Prop := k = portPick p ∨ (k = .timeout ∧ p = .consumer)

theorem exists_pickOfPort {k : Pick} (hk : k ≠ .reset) : ∃ p, PickOfPort k p := by
  cases k with
  | host => exact ⟨.host, .inl rfl⟩
  | producer => exact ⟨.producer, .inl rfl⟩
  | consumer => exact ⟨.consumer, .inl rfl⟩
  | timeout => exact ⟨.consumer, .inr ⟨rfl, rfl⟩⟩
  | reset => exact absurd rfl hk

/-- What a command does to the ports, without the holds. -/
theorem ExecCase.answers_or_keeps {i : Instr} (he : ExecCase s i t) :
    (∀ q, q ≠ i.port → PortKept s t q) ∧ (PortKept s t i.port ∨ PortAnswered s t i.port) := by
  rcases he.ports with ⟨r, hout, htail, hother, -⟩ | ⟨hio, -⟩
  · exact ⟨hother, .inr ⟨r, hout, htail⟩⟩
  · simp [PortKept, hio]

/-- An answer after `State.tick`, which leaves the ports. -/
theorem answered_tick {p : Port} {r : Response} (h : Answered s.tick t p r) :
    (∀ q, q ≠ p → PortKept s t q) ∧ PortAnswered s t p :=
  ⟨fun q hq => by simpa [PortKept] using h.otherPorts q hq, r, by simpa using h.response, by simpa using h.taken⟩

/-- A host port that holds has its current command (R38). -/
theorem State.HoldsMatch.host_ne_nil (h : s.HoldsMatch) (hw : s.st.hostWait ≠ .none) : s.io.cmds .host ≠ [] := by
  rcases hh : s.st.hostWait
  · exact absurd hh hw
  · obtain ⟨c, rest, hc, -⟩ := h.stopHeld hh
    exact ne_of_eq_of_ne hc (List.cons_ne_nil c rest)
  · obtain ⟨c, rest, hc, -⟩ := h.closeHeld hh
    exact ne_of_eq_of_ne hc (List.cons_ne_nil c rest)

/-- A consumer port that holds has its current command (R38). -/
theorem State.HoldsMatch.consumer_ne_nil (h : s.HoldsMatch) {want : Operand} (hw : s.st.consWait = .produce want) :
    s.io.cmds .consumer ≠ [] := by
  obtain ⟨c, rest, hc, -⟩ := h.produceHeld want hw
  exact ne_of_eq_of_ne hc (List.cons_ne_nil c rest)

/-- A step other than a hardware reset leaves every port but that of its pick, and on that one it answers the current
command or nothing. -/
theorem StepCase.ports (h : StepCase s t) (hreset : s.nextPick ≠ .reset) :
    ∃ p, PickOfPort s.nextPick p ∧ (∀ q, q ≠ p → PortKept s t q) ∧
      (PortKept s t p ∨ (PortAnswered s t p ∧ (s.HoldsMatch → s.io.cmds p ≠ []))) := by
  cases h with
  | idle =>
    obtain ⟨p, hp⟩ := exists_pickOfPort hreset
    exact ⟨p, hp, by simp [PortKept], .inl (by simp [PortKept])⟩
  | ran p c cs i t hp hf hc hw hi he =>
    subst hi
    obtain ⟨hother, hport⟩ := he.answers_or_keeps
    simp only [PortKept, PortAnswered, State.tick_out, State.tick_cmds] at hother hport
    exact ⟨i.port, .inl hp, hother, hport.imp_right fun ha => ⟨ha, fun _ => by simp [hc]⟩⟩
  | rejected p c cs r hp hf hc hd =>
    obtain ⟨hother, ha⟩ := answered_tick (faulted_raiseFault s.tick p (rejectCause r) c.word).answered
    exact ⟨p, .inl hp, hother, .inr ⟨ha, fun _ => by simp [hc]⟩⟩
  | retried want t hp hw he =>
    obtain ⟨hother, hport⟩ := he.answers_or_keeps
    simp only [PortKept, PortAnswered, State.tick_out, State.tick_cmds] at hother hport
    exact ⟨.consumer, .inl hp, hother, hport.imp_right fun ha => ⟨ha, fun hm => hm.consumer_ne_nil hw⟩⟩
  | stopJoined hp hw =>
    obtain ⟨hother, ha⟩ := answered_tick (answered_respond s.tick .host (Response.ok 0) s.st.joined)
    exact ⟨.host, .inl hp, hother, .inr ⟨ha, fun hm => hm.host_ne_nil (by simp [hw])⟩⟩
  | closeJoined hp hw =>
    obtain ⟨hother, ha⟩ :=
      answered_tick (answered_respond s.tick .host (Response.ok 0) { s.st.free with hostWait := .none })
    exact ⟨.host, .inl hp, hother, .inr ⟨ha, fun hm => hm.host_ne_nil (by simp [hw])⟩⟩
  | timedOut want hp hw =>
    obtain ⟨hother, ha⟩ :=
      answered_tick (answered_respond s.tick .consumer (Response.ok 0) { s.st with consWait := .none })
    exact ⟨.consumer, .inr ⟨hp, rfl⟩, hother, .inr ⟨ha, fun hm => hm.consumer_ne_nil hw⟩⟩
  | reset hp => exact absurd hp hreset

/-- Settles O52. -/
theorem eachCommandIsAnsweredOnce : Obligations.EachCommandIsAnsweredOnce := by
  intro s t hinv hstep hreset
  obtain ⟨p, -, hother, hport⟩ := (step_cases hstep).ports hreset
  have only : ∀ q, t.io.out q ≠ s.io.out q → q = p := fun q hq => by
    by_contra hne
    exact hq (hother q hne).1
  refine ⟨fun q => ?_, fun q q' hq hq' => (only q hq).trans (only q' hq').symm⟩
  by_cases hq : q = p
  · subst hq
    rcases hport with hkept | ⟨⟨r, hout, htail⟩, hne⟩
    · exact .inl hkept
    · obtain ⟨c, cs, hc⟩ := List.exists_cons_of_ne_nil (hne hinv.holds)
      exact .inr ⟨c, r, by rw [htail, hc, List.tail_cons], hout⟩
  · exact .inl (hother q hq)

end Sys2Proof.Machine
end

section
/-! PROOFS. R40: the bits of the STATE register. -/

namespace Sys2Proof.Machine

/-- Settles O23. -/
theorem stateRegisterBits : Obligations.StateRegisterBits := by
  refine ⟨by decide, fun st => ?_⟩
  simp only [Block.stateWord_getLsbD]
  refine ⟨by simp, by simp, by simp, by simp, by simp, by simp, by simp [Block.isFull], by simp [Block.isEmpty], ?_⟩
  intro k hk
  have hne : ∀ n, n < 8 → k ≠ n := fun n hn => by omega
  simp [hne]

end Sys2Proof.Machine
end

section
/-! PROOFS. R60, R44: the ring as a drop-oldest queue of samples, over every step, and the conservation of samples that
follows from it. -/

namespace Sys2Proof.Machine

variable {s t : State} {i : Instr}

theorem Instr.eq_produce_of_port (h : i.port = .consumer) : ∃ want, i = .produce want := by
  cases i with
  | produce want => exact ⟨want, rfl⟩
  | _ => exact nomatch h

/-! ### What a command does to the queue -/

/-- The fields that the ring's samples depend on are the same. -/
def SameRing (st st' : Block) : Prop :=
  st'.slots = st.slots ∧ st'.buflen = st.buflen ∧ st'.nSlots = st.nSlots ∧ st'.head = st.head ∧
    st'.used = st.used ∧ st'.offset = st.offset

theorem Block.pending_of_sameRing (p : Params) {st st' : Block} (h : SameRing st st') : st'.pending p = st.pending p := by
  obtain ⟨hslots, hbuflen, hn, hhead, hused, hoffset⟩ := h
  exact Block.pending_congr p hslots hbuflen hn hhead hused hoffset

/-- The queue is as it was, and no sample is answered. -/
def QueueKept (s t : State) : Prop :=
  t.st.pending s.params = s.st.pending s.params ∧
    (t.io.consOut = s.io.consOut ∨ ∃ r, t.io.consOut = r :: s.io.consOut ∧ r.payload = [])

/-- The consumer takes the first `n` samples of the queue, and its response carries them. -/
def QueueTaken (s t : State) (n : Nat) : Prop :=
  t.st.pending s.params = (s.st.pending s.params).drop n ∧
    t.io.consOut = ⟨false, BitVec.ofNat 32 n, (s.st.pending s.params).take n⟩ :: s.io.consOut

/-- The other ports' commands leave the consumer's responses. -/
theorem ExecCase.consOut_kept (he : ExecCase s i t) (hi : i.port ≠ .consumer) : t.io.consOut = s.io.consOut :=
  (he.answers_or_keeps.1 .consumer hi.symm).1

/-- A host command leaves the queue or empties it: OPEN, START and CLOSE empty it, no other changes the ring. -/
theorem ExecCase.queue_host (he : ExecCase s i t) (hi : i.port = .host) (p : Params) :
    t.st.pending p = s.st.pending p ∨ t.st.pending p = [] := by
  cases he with
  | opened | started | closeFrees => exact .inr (Block.pending_of_used_zero p rfl)
  | deliverNoLoop | deliverBadLength | deliverCancelled | deliverSkipped | delivered | exitNoLoop | exited
  | produceHolds | produceClosed | endOfStream | drained => exact nomatch hi
  | _ => exact .inl (Block.pending_of_sameRing p (by simp [SameRing]))

/-- A producer command leaves the queue, or it is a push of the delivered block. -/
theorem ExecCase.queue_producer (he : ExecCase s i t) (hi : i.port = .producer) (p : Params) :
    t.st.pending p = s.st.pending p ∨
    (s.st.running = true ∧ s.st.skipRem = 0 ∧ t.st = s.st.push (s.deliveredPayload s.st.buflen)) := by
  cases he with
  | delivered len ha hb hr hk => exact .inr ⟨hr, hk, hb ▸ rfl⟩
  | deliverNoLoop | deliverBadLength | deliverCancelled | deliverSkipped | exitNoLoop | exited =>
    exact .inl (Block.pending_of_sameRing p (by simp [SameRing]))
  | _ => exact nomatch hi

/-- The drain of an answering PRODUCE takes up to `want` samples from the front; priming and the end of the hold leave the
queue. -/
theorem Block.Inv.drain_takes {p : Params} {st : Block} (h : st.Inv p) (hl : st.life = .opened) (want : Operand) :
    ((({ st with consWait := .none } : Block).prime p).drain p want).2 = (st.pending p).take want.toNat ∧
    ((({ st with consWait := .none } : Block).prime p).drain p want).1.pending p =
      (st.pending p).drop want.toNat := by
  obtain ⟨-, -, -, hh, -, ho⟩ := h.openGeometry hl
  have hp : (({ st with consWait := .none } : Block).prime p).pending p = st.pending p :=
    Block.pending_of_sameRing p (by simp [SameRing])
  rw [← hp]
  apply drainLoop_pending p _ _ _ le_rfl
  · simpa using hh
  · simpa [Block.slotSamples] using ho

/-- A PRODUCE keeps the queue and answers no sample, or it takes samples from the front and answers those. -/
theorem ExecCase.queue_consumer {want : Operand} (he : ExecCase s (.produce want) t) (h : s.st.Inv s.params) :
    QueueKept s t ∨ ∃ n, QueueTaken s t n := by
  cases he with
  | produceHolds => exact .inl ⟨Block.pending_congr _ rfl rfl rfl rfl rfl rfl, .inl rfl⟩
  | produceClosed =>
    exact .inl ⟨Block.pending_of_sameRing _ (by simp [SameRing]), .inr ⟨_, rfl, rfl⟩⟩
  | endOfStream => exact .inl ⟨Block.pending_congr _ rfl rfl rfl rfl rfl rfl, .inr ⟨_, rfl, rfl⟩⟩
  | drained want hr hl =>
    obtain ⟨hout, hleft⟩ := h.drain_takes hl want
    have htake : (s.st.pending s.params).take (min want.toNat s.st.available) = (s.st.pending s.params).take want.toNat := by
      rw [← Block.pending_length s.params, ← List.take_eq_take_min]
    have hdrop : (s.st.pending s.params).drop (min want.toNat s.st.available) = (s.st.pending s.params).drop want.toNat := by
      rw [← Block.pending_length s.params, ← List.drop_eq_drop_min]
    refine .inr ⟨min want.toNat s.st.available, ?_, ?_⟩
    · rw [hdrop]
      exact hleft
    · rw [htake]
      simp only [hout, Response.samples, List.length_take, Block.pending_length]
      rfl

/-! ### The refinement -/

/-- A fault leaves the queue and carries no sample. -/
theorem queueKept_raiseFault (s : State) (p : Port) (c : Cause) (w : Word) : QueueKept s (s.tick.raiseFault p c w) := by
  refine ⟨Block.pending_of_sameRing _ (by simp [SameRing]), ?_⟩
  cases p with
  | host | producer => exact .inl rfl
  | consumer => exact .inr ⟨_, rfl, rfl⟩

/-- A push of the invariant's ring appends the block's samples, after dropping what is left of the oldest block of a full
ring. -/
theorem Block.Inv.pending_push {p : Params} {st : Block} (h : st.Inv p) (hr : st.running = true) {bytes : List Byte}
    (hl : bytes.length = st.buflen.toNat) :
    (st.push bytes).pending p =
      (if st.used = st.nSlots.toNat then (st.pending p).drop (st.slotSamples - st.offset) else st.pending p) ++
        blockSamples p bytes := by
  obtain ⟨-, -, -, hh, hu, ho⟩ := h.openGeometry (h.opened_of_loopActive (h.runningHasLoop hr))
  exact Block.pending_push p st hl hh hu ho h.cursorOfEmpty

/-- Settles O55: each port's commands do what the queue allows to that port, and the other steps keep or empty it. -/
theorem ringIsADropOldestQueue : Obligations.RingIsADropOldestQueue := by
  intro s t hinv hstep
  have hblock : s.tick.st.Inv s.tick.params := hinv.block
  cases step_cases hstep with
  | idle => exact .inl ⟨rfl, .inl rfl⟩
  | ran p c cs i t hp hf hc hw hi he =>
    cases p with
    | host =>
      have hout := he.consOut_kept (by simp [hi])
      rcases he.queue_host hi s.params with hkept | hempty
      · exact .inl ⟨hkept, .inl hout⟩
      · exact .inr (.inl ⟨hempty, .inl hp, hout⟩)
    | producer =>
      have hout := he.consOut_kept (by simp [hi])
      rcases he.queue_producer hi s.params with hkept | ⟨hr, hk, hpush⟩
      · exact .inl ⟨hkept, .inl hout⟩
      · refine .inr (.inr (.inl ⟨hp, hr, hk, hout, by simp, ?_, ?_⟩))
        · exact fun c cs hc hlen => State.deliveredPayload_eq (s := s.tick) hc hlen
        · rw [hpush]
          exact hblock.pending_push hr (by simp)
    | consumer =>
      obtain ⟨want, rfl⟩ := Instr.eq_produce_of_port hi
      rcases he.queue_consumer hblock with hkept | htaken
      · exact .inl hkept
      · exact .inr (.inr (.inr ⟨hp, htaken⟩))
  | rejected p => exact .inl (queueKept_raiseFault s p _ _)
  | retried want t hp hw he =>
    rcases he.queue_consumer hblock with hkept | htaken
    · exact .inl hkept
    · exact .inr (.inr (.inr ⟨hp, htaken⟩))
  | stopJoined => exact .inl ⟨Block.pending_congr _ rfl rfl rfl rfl rfl rfl, .inl rfl⟩
  | closeJoined hp => exact .inr (.inl ⟨Block.pending_of_used_zero _ rfl, .inl hp, rfl⟩)
  | timedOut => exact .inl ⟨Block.pending_congr _ rfl rfl rfl rfl rfl rfl, .inr ⟨_, rfl, rfl⟩⟩
  | reset hp => exact .inr (.inl ⟨Block.pending_of_used_zero _ rfl, .inr hp, rfl⟩)

/-! ### Conservation (R44, R122, R123, R146) -/

/-- A push adds a block's samples to the available ones, less what the dropped block still held: the lengths in
`Block.pending_push`. -/
theorem Block.Inv.available_push {p : Params} {st : Block} (h : st.Inv p) (hr : st.running = true) {bytes : List Byte}
    (hl : bytes.length = st.buflen.toNat) :
    (st.push bytes).available + (if st.used = st.nSlots.toNat then st.slotSamples - st.offset else 0) =
      st.available + st.slotSamples := by
  have hlen := congrArg List.length (h.pending_push hr hl)
  have hblock : (blockSamples p bytes).length = st.slotSamples := by rw [blockSamples_length, hl, Block.slotSamples]
  obtain ⟨hn, -⟩ := h.openGeometry (h.opened_of_loopActive (h.runningHasLoop hr))
  rw [List.length_append, hblock, Block.pending_length] at hlen
  split_ifs at hlen ⊢ with hfull
  · have hused : st.slotSamples ≤ st.used * st.slotSamples := Nat.le_mul_of_pos_left _ (by omega)
    have hheld : st.slotSamples - st.offset ≤ st.available := by simp only [Block.available]; omega
    rw [List.length_drop, Block.pending_length] at hlen
    omega
  · rw [Block.pending_length] at hlen
    exact hlen

/-- Settles O56: both parts are the lengths of what the queue gains and loses. -/
theorem samplesAreConserved : Obligations.SamplesAreConserved := by
  refine ⟨fun s t hinv hr hk hexec => ?_, fun s t want r hinv hexec hout => ?_⟩
  · cases exec_cases hexec with
    | deliverNoLoop _ ha => simp [hinv.block.runningHasLoop hr] at ha
    | deliverBadLength _ _ hb => exact absurd rfl hb
    | deliverCancelled _ _ _ hr' => simp [hr] at hr'
    | deliverSkipped _ _ _ _ hk' => simp [hk] at hk'
    | delivered => exact hinv.block.available_push hr (by simp)
  · simp only [← Block.pending_length s.params]
    rcases (exec_cases hexec).queue_consumer hinv.block with ⟨hkept, hsame | ⟨r', hout', hempty⟩⟩ | ⟨n, hleft, hout'⟩
    · exact absurd (hout.symm.trans hsame) (List.cons_ne_self r _)
    · obtain rfl := (List.cons.inj (hout.symm.trans hout')).1
      rw [hkept, hempty, List.length_nil, Nat.add_zero]
    · rw [(List.cons.inj (hout.symm.trans hout')).1, hleft, Nat.add_comm, ← List.length_append, List.take_append_drop]

end Sys2Proof.Machine
end

section
/-! PROOFS. R38, R105, R107, R141, R211, R212: the stuck states, which picks do nothing, what an enabled step does, that it
stays enabled, and what weak fairness forces. -/

namespace Sys2Proof.Machine

variable {s t : State}

/-! ### Picks that change nothing -/

/-- A STOP or CLOSE whose loop has not exited takes no step (R212(a), log 10). -/
theorem step_of_joinWaits (hp : s.nextPick = .host) (hw : s.joinWaits) : step s = .next s.tick := by
  obtain ⟨hhold, ha⟩ := hw
  rcases hh : s.st.hostWait
  · exact absurd hh hhold
  · simp [step, hp, State.pickStep, State.hostStep, hh, ha]
  · simp [step, hp, State.pickStep, State.hostStep, hh, ha]

theorem execProduce_of_not_ready {want : Operand} (hr : s.st.ready s.params = false) :
    execProduce want s = .next (s.withConsWait (.produce want)) := by
  simp [execProduce, hr]

theorem State.withConsWait_of_eq {cw : ConsWait} (h : s.st.consWait = cw) : s.withConsWait cw = s := by
  subst h
  rfl

/-- A held PRODUCE is tried again at its port's pick (R61). -/
theorem step_of_held_produce {want : Operand} (hp : s.nextPick = .consumer) (hw : s.st.consWait = .produce want) :
    step s = execProduce want s.tick := by
  simp [step, hp, State.pickStep, State.consumerStep, hw, exec]

/-- A PRODUCE that waits for prefill takes no step (R212(b), log 10). -/
theorem step_of_prefillWaits (hp : s.nextPick = .consumer) (hw : s.prefillWaits) : step s = .next s.tick := by
  obtain ⟨hhold, hr⟩ := hw
  rcases hh : s.st.consWait with _ | want
  · exact absurd hh hhold
  · rw [step_of_held_produce hp hh, execProduce_of_not_ready (s := s.tick) hr, State.withConsWait_of_eq (s := s.tick) hh]

theorem State.enabled_host_iff :
    s.enabled .host = true ↔
      (s.st.hostWait = .none ∧ s.io.cmds .host ≠ []) ∨ (s.st.hostWait ≠ .none ∧ s.st.loopActive = false) := by
  simp only [State.enabled, Io.cmds]
  cases s.st.hostWait <;> simp

theorem State.enabled_producer_iff : s.enabled .producer = true ↔ s.io.cmds .producer ≠ [] := by
  simp [State.enabled, Io.cmds]

/-- Why a host port is not enabled: it waits, or it has no command. -/
theorem State.not_enabled_host (h : s.enabled .host = false) :
    s.joinWaits ∨ (PortFree s .host ∧ s.io.cmds .host = []) := by
  have hno : ¬ s.enabled .host = true := by simp [h]
  rw [State.enabled_host_iff, not_or, not_and, not_and] at hno
  by_cases hh : s.st.hostWait = .none
  · exact .inr ⟨hh, not_not.1 (hno.1 hh)⟩
  · exact .inl ⟨hh, by simpa using hno.2 hh⟩

/-- Why a consumer port is not enabled: it waits, it has no command, or its PRODUCE is not ready. -/
theorem State.not_enabled_consumer (h : s.enabled .consumer = false) :
    s.prefillWaits ∨ (PortFree s .consumer ∧
      (s.io.cmds .consumer = [] ∨
        (s.st.ready s.params = false ∧
          ∃ c cs i, s.io.cmds .consumer = c :: cs ∧ decodeOn .consumer c.word = .instr i))) := by
  unfold State.enabled at h
  rcases hh : s.st.consWait with _ | want <;> simp only [hh] at h
  · refine .inr ⟨hh, ?_⟩
    split at h
    · next hc => exact .inl hc
    · next c cs hc =>
      split at h
      · next i hd => exact .inr ⟨h, c, cs, i, hc, hd⟩
      · cases h
  · exact .inl ⟨by simp [hh], h⟩

/-- The pick of a port whose step is not enabled at most records the hold of a PRODUCE (log 10, 17). -/
theorem step_of_not_enabled {p : Port} (hp : s.nextPick = portPick p) (h : s.enabled p = false) :
    ∃ t, step s = .next t ∧ { t.st with consWait := s.st.consWait } = s.st ∧ Unanswered s.tick t := by
  cases p with
  | host =>
    rcases State.not_enabled_host h with hw | ⟨hf, hc⟩
    · exact ⟨_, step_of_joinWaits hp hw, rfl, rfl, rfl⟩
    · exact ⟨_, step_of_no_command hp hf hc, rfl, rfl, rfl⟩
  | producer =>
    have hc : s.io.cmds .producer = [] := by simpa [h] using State.enabled_producer_iff (s := s)
    exact ⟨_, step_of_no_command hp trivial hc, rfl, rfl, rfl⟩
  | consumer =>
    rcases State.not_enabled_consumer h with hw | ⟨hf, hc | ⟨hr, c, cs, i, hc, hd⟩⟩
    · exact ⟨_, step_of_prefillWaits hp hw, rfl, rfl, rfl⟩
    · exact ⟨_, step_of_no_command hp hf hc, rfl, rfl, rfl⟩
    · obtain ⟨want, rfl⟩ := Instr.eq_produce_of_port (encode_of_decodeOn hd).2
      refine ⟨s.tick.withConsWait (.produce want), ?_, rfl, rfl, rfl⟩
      rw [(step_decodes hp hf hc).1 _ hd]
      exact execProduce_of_not_ready hr

/-! ### An enabled step answers -/

/-- A PRODUCE that is ready answers. -/
theorem ExecCase.answers_of_ready {want : Operand} (he : ExecCase s (.produce want) t)
    (hr : s.st.ready s.params = true) : ∃ r, t.io.out .consumer = r :: s.io.out .consumer := by
  cases he with
  | produceHolds _ hn => simp [hr] at hn
  | produceClosed | endOfStream | drained => exact ⟨_, rfl⟩

/-- A command answers, or it begins a wait of the host port; a PRODUCE is taken to be ready. -/
theorem ExecCase.answers_or_waits {i : Instr} (he : ExecCase s i t)
    (hready : i.port = .consumer → s.st.ready s.params = true) :
    (∃ r, t.io.out i.port = r :: s.io.out i.port) ∨ (i.port = .host ∧ t.st.hostWait ≠ .none) := by
  rcases he.ports with ⟨r, hout, -⟩ | ⟨-, ⟨rfl, hh, -⟩ | ⟨rfl, hh, -⟩ | ⟨want, rfl, -⟩⟩
  · exact .inl ⟨r, hout⟩
  · exact .inr ⟨rfl, by simp [hh]⟩
  · exact .inr ⟨rfl, by simp [hh]⟩
  · exact .inl (he.answers_of_ready (hready rfl))

/-- The step of a free port with a command answers, or it begins a wait of the host port. -/
theorem step_of_free_port {p : Port} {c : Command} {cs : List Command} (h : step s = .next t)
    (hp : s.nextPick = portPick p) (hf : PortFree s p) (hc : s.io.cmds p = c :: cs)
    (hready : ∀ i, p = .consumer → decodeOn p c.word = .instr i → s.st.ready s.params = true) :
    (∃ r, t.io.out p = r :: s.io.out p) ∨ (p = .host ∧ t.st.hostWait ≠ .none) := by
  rcases hd : decodeOn p c.word with i | r
  · rw [(step_decodes hp hf hc).1 i hd] at h
    obtain rfl := (encode_of_decodeOn hd).2
    simpa using (exec_cases h).answers_or_waits fun hi => hready i hi hd
  · obtain ⟨u, hu, hfault⟩ := (step_decodes hp hf hc).2 r hd
    cases hu.symm.trans h
    exact .inl ⟨_, by simpa using hfault.answered.response⟩

/-- A join whose loop has exited answers (R105, R107). -/
theorem join_answers (h : step s = .next t) (hp : s.nextPick = .host) (hw : s.st.hostWait ≠ .none)
    (ha : s.st.loopActive = false) : ∃ r, t.io.out .host = r :: s.io.out .host := by
  simp only [step, hp, State.pickStep, State.hostStep, State.tick_st, ha] at h
  rcases hh : s.st.hostWait <;> simp only [hh] at h
  · exact absurd hh hw
  · cases h
    exact ⟨_, rfl⟩
  · cases h
    exact ⟨_, rfl⟩

theorem step_of_enabled_host (h : step s = .next t) (hp : s.nextPick = .host) (he : s.enabled .host = true) :
    (∃ r, t.io.out .host = r :: s.io.out .host) ∨ (s.st.hostWait = .none ∧ t.st.hostWait ≠ .none) := by
  rcases State.enabled_host_iff.1 he with ⟨hf, hne⟩ | ⟨hw, ha⟩
  · obtain ⟨c, cs, hc⟩ := List.exists_cons_of_ne_nil hne
    exact (step_of_free_port (p := .host) h hp hf hc nofun).imp_right fun hw => ⟨hf, hw.2⟩
  · exact .inl (join_answers h hp hw ha)

theorem step_of_enabled_consumer (h : step s = .next t) (hp : s.nextPick = .consumer)
    (he : s.enabled .consumer = true) : ∃ r, t.io.out .consumer = r :: s.io.out .consumer := by
  unfold State.enabled at he
  rcases hh : s.st.consWait with _ | want <;> simp only [hh] at he
  · split at he
    · cases he
    · next c cs hc =>
      have hready : ∀ i, Port.consumer = .consumer → decodeOn .consumer c.word = .instr i →
          s.st.ready s.params = true := fun i _ hd => by simpa [hd] using he
      exact (step_of_free_port (p := .consumer) h hp hh hc hready).resolve_right fun hw => nomatch hw.1
  · rw [step_of_held_produce hp hh] at h
    exact (exec_cases (i := .produce want) h).answers_of_ready he

/-- From a state of the invariant the pick of an enabled port answers, or begins the wait of a STOP or CLOSE. -/
theorem step_of_enabled {p : Port} (hinv : s.Inv) (hp : s.nextPick = portPick p) (he : s.enabled p = true) :
    ∃ t, step s = .next t ∧
      ((∃ r, t.io.out p = r :: s.io.out p) ∨ (p = .host ∧ s.st.hostWait = .none ∧ t.st.hostWait ≠ .none)) := by
  obtain ⟨t, ht⟩ := step_next hinv.block
  refine ⟨t, ht, ?_⟩
  cases p with
  | host => exact (step_of_enabled_host ht hp he).imp_right fun hw => ⟨rfl, hw⟩
  | producer =>
    obtain ⟨c, cs, hc⟩ := List.exists_cons_of_ne_nil (State.enabled_producer_iff.1 he)
    exact .inl ((step_of_free_port (p := .producer) ht hp trivial hc nofun).resolve_right fun hw => nomatch hw.1)
  | consumer => exact .inl (step_of_enabled_consumer ht hp he)

/-! ### An enabled step of the host or the producer port stays enabled -/

/-- Only the host port's pick, or a hardware reset, changes its hold. -/
theorem StepCase.hostWait_kept (h : StepCase s t) (hp : s.nextPick ≠ .host) (hreset : s.nextPick ≠ .reset) :
    t.st.hostWait = s.st.hostWait := by
  cases h with
  | ran p c cs i t hpick hf hc hw hi he =>
    subst hi
    rcases he.ports with ⟨-, -, -, -, hh, -⟩ | ⟨-, ⟨rfl, -⟩ | ⟨rfl, -⟩ | ⟨want, -, -, hh⟩⟩
    · exact hh
    · exact absurd hpick hp
    · exact absurd hpick hp
    · exact hh
  | retried want t hpick hw he =>
    rcases he.ports with ⟨-, -, -, -, hh, -⟩ | ⟨-, ⟨hi, -⟩ | ⟨hi, -⟩ | ⟨-, -, -, hh⟩⟩
    · exact hh
    · exact nomatch hi
    · exact nomatch hi
    · exact hh
  | stopJoined hpick | closeJoined hpick => exact absurd hpick hp
  | reset hpick => exact absurd hpick hreset
  | idle | rejected | timedOut => simp

/-- Only a START sets `loop_active`, and that is a step of the host port. -/
theorem StepCase.loop_not_set (h : StepCase s t) (hp : s.nextPick ≠ .host) :
    t.st.loopActive = true → s.st.loopActive = true := by
  rcases h.start_or_no_flag_set with ⟨hpick, -⟩ | ⟨-, hl⟩
  · exact absurd hpick hp
  · exact hl

/-- What keeps an enabled host or producer port enabled: a stream that stays nonempty and, for the host port, the same
hold and no loop begun. -/
theorem enabled_of_kept {p : Port} (hpc : p ≠ .consumer) (hc : s.io.cmds p ≠ [] → t.io.cmds p ≠ [])
    (hw : p = .host → t.st.hostWait = s.st.hostWait ∧ (t.st.loopActive = true → s.st.loopActive = true))
    (h : s.enabled p = true) : t.enabled p = true := by
  cases p with
  | host =>
    obtain ⟨hh, hl⟩ := hw rfl
    rw [State.enabled_host_iff] at h ⊢
    rw [hh]
    exact h.imp (And.imp_right hc) (And.imp_right fun h0 => by simpa [h0] using hl)
  | producer => exact State.enabled_producer_iff.2 (hc (State.enabled_producer_iff.1 h))
  | consumer => exact absurd rfl hpc

/-- An enabled step of the host or the producer port stays enabled over every other step but a hardware reset. -/
theorem StepCase.enabled_kept (h : StepCase s t) {p : Port} (hpc : p ≠ .consumer) (he : s.enabled p = true)
    (hp : s.nextPick ≠ portPick p) (hreset : s.nextPick ≠ .reset) : t.enabled p = true := by
  obtain ⟨q, hq, hother, -⟩ := h.ports hreset
  have hpq : p ≠ q := by
    rintro rfl
    exact hq.elim hp fun hq => hpc hq.2
  refine enabled_of_kept hpc (fun hne => (hother p hpq).2 ▸ hne) ?_ he
  rintro rfl
  exact ⟨h.hostWait_kept hp hreset, h.loop_not_set hp⟩

/-- What the environment does between two steps keeps an enabled port enabled: it only issues more commands. -/
theorem EnvironmentMove.enabled_kept (h : EnvironmentMove s t) {p : Port} (hpc : p ≠ .consumer)
    (he : s.enabled p = true) : t.enabled p = true := by
  obtain ⟨more, hmore⟩ := h.issued p
  refine enabled_of_kept hpc (fun hne => ?_) (fun _ => by simp [h.sameBlock]) he
  rw [hmore]
  exact List.append_ne_nil_of_left_ne_nil hne more

/-! ### Weak fairness takes it -/

/-- In a run without a hardware reset the port stays enabled as long as it is not picked. -/
theorem IsRun.enabled_until_picked {run : Nat → State} (hrun : IsRun run) (hreset : ∀ n, (run n).nextPick ≠ .reset)
    {p : Port} (hpc : p ≠ .consumer) {n : Nat} (he : (run n).enabled p = true) (k : Nat)
    (hnot : ∀ j, j < k → (run (n + j)).nextPick ≠ portPick p) : (run (n + k)).enabled p = true := by
  induction k with
  | zero => exact he
  | succ k ih =>
    have hk := ih fun j hj => hnot j (by omega)
    obtain ⟨t, hstep, hmove⟩ := hrun (n + k)
    exact hmove.enabled_kept hpc
      ((step_cases hstep).enabled_kept hpc hk (hnot k (Nat.lt_succ_self k)) (hreset _))

/-- An enabled step of the host or the producer port is taken: were the port never picked, it would stay enabled for ever,
and weak fairness would pick it. -/
theorem WeaklyFair.takes_enabled {run : Nat → State} (hfair : WeaklyFair run) (hrun : IsRun run)
    (hreset : ∀ n, (run n).nextPick ≠ .reset) {p : Port} (hpc : p ≠ .consumer) {n : Nat}
    (he : (run n).enabled p = true) : ∃ m, n ≤ m ∧ (run m).enabled p = true ∧ (run m).nextPick = portPick p := by
  by_cases hpicked : ∃ k, (run (n + k)).nextPick = portPick p
  · refine ⟨n + Nat.find hpicked, Nat.le_add_right _ _, ?_, Nat.find_spec hpicked⟩
    exact hrun.enabled_until_picked hreset hpc he _ fun j hj => Nat.find_min hpicked hj
  · have hnever : ∀ k, (run (n + k)).nextPick ≠ portPick p := fun k hk => hpicked ⟨k, hk⟩
    obtain ⟨m, hm, hpick⟩ := hfair p n fun m hm => by
      obtain ⟨k, rfl⟩ := Nat.exists_eq_add_of_le hm
      exact hrun.enabled_until_picked hreset hpc he k fun j _ => hnever j
    obtain ⟨k, rfl⟩ := Nat.exists_eq_add_of_le hm
    exact absurd hpick (hnever k)

/-- Settles O39. -/
theorem waitingPortsTakeNoStep : Obligations.WaitingPortsTakeNoStep :=
  ⟨fun _ => step_of_joinWaits, fun _ => step_of_prefillWaits, fun _ _ => step_of_not_enabled,
    fun _ _ => step_of_enabled, fun _ _ _ hpc he hstep => (step_cases hstep).enabled_kept hpc he,
    fun _ hrun hfair hreset _ _ hpc he => hfair.takes_enabled hrun hreset hpc he⟩

end Sys2Proof.Machine
end

section
/-! PROOFS. Slot storage under the commands (spec/20_memory.md): R51, R102: OPEN allocates the ring or changes nothing; R61:
a held PRODUCE is tried again; R143, R165: which stored bytes a PRODUCE's samples come from; R53: the bytes of an output
payload. -/

namespace Sys2Proof.Machine

variable {s t : State} {p : Params} {st : Block} {want : Operand}

/-! ### A held PRODUCE (R61, R141) -/

/-- Settles O13. -/
theorem heldProduceIsTriedAgain : Obligations.HeldProduceIsTriedAgain :=
  fun _ _ => step_of_held_produce

/-! ### OPEN (R51, R102, R186) -/

theorem State.opens_iff : s.opens = true ↔
    s.openOk = true ∧ s.st.cfgBuffers.toNat * s.st.cfgBuflen.toNat ≤ s.params.ringBytesMax := by
  simp [State.opens, State.ringTooBig]

theorem State.not_opens_iff : s.opens = false ↔
    s.openOk = false ∨ s.params.ringBytesMax < s.st.cfgBuffers.toNat * s.st.cfgBuflen.toNat := by
  simp [State.opens, State.ringTooBig, or_iff_not_imp_left]

theorem exec_openDevice_of_closed (hl : s.st.life = .closed) : exec .openDevice s = .next s.openClosed := by
  simp only [exec, execOpenDevice, hl]

theorem exec_openDevice_of_opened (hl : s.st.life = .opened) :
    exec .openDevice s = .next (s.raiseFault .host .alreadyOpen (encode .openDevice)) := by
  simp only [exec, execOpenDevice, hl]

theorem State.openClosed_of_opens (h : s.opens = true) :
    s.openClosed = s.useOpenAnswer.respond .host (Response.ok 0) (s.st.allocate s.io.draws) := by
  simp [State.openClosed, h]

theorem State.openClosed_of_not_opens (h : s.opens = false) :
    s.openClosed = s.useOpenAnswer.respond .host (Response.ok 1) s.st := by
  simp [State.openClosed, h]

/-- No byte of a new ring is written, so each reads as the free value of the draw (R28, log 4). -/
theorem Block.storageByte_allocate (drawn a : Nat) :
    (st.allocate drawn).storageByte a = Config.freeSlotByte drawn a := rfl

/-- Settles O16: the answer and the bound are what `State.opens` asks, and the next block is `Block.allocate`. -/
theorem openAllocatesTheRing : Obligations.OpenAllocatesTheRing := by
  intro s hl hok hfits
  refine ⟨_, exec_openDevice_of_closed hl, ?_⟩
  rw [State.openClosed_of_opens (State.opens_iff.2 ⟨hok, hfits⟩)]
  have hanswer : Answered s.useOpenAnswer _ .host ⟨false, 0, []⟩ :=
    answered_respond s.useOpenAnswer .host (Response.ok 0) (s.st.allocate s.io.draws)
  simpa [Block.storageByte_allocate] using hanswer

/-- Settles O17. -/
theorem openFailsWithoutPartialState : Obligations.OpenFailsWithoutPartialState := by
  refine ⟨fun s hl hfail => ⟨_, exec_openDevice_of_closed hl, ?_⟩,
    fun s hl => ⟨_, exec_openDevice_of_opened hl, faulted_raiseFault s _ _ _⟩⟩
  rw [State.openClosed_of_not_opens (State.not_opens_iff.2 hfail)]
  exact ⟨rfl, fun _ => rfl, answered_respond _ _ _ _⟩

/-! ### What a released PRODUCE drains (R142, R143) -/

@[simp] theorem Block.drain_primed : (st.drain p want).1.primed = st.primed := by rw [Block.drain_frame]

theorem Block.drain_of_used_zero (h : st.used = 0) : (st.drain p want).2 = [] := by
  simp [Block.drain, h, drainLoop]

theorem Block.drain_of_want_zero (h : want = 0) : (st.drain p want).2 = [] := by
  rw [Block.drain, h]
  cases st.used <;> simp [drainLoop]

/-- A drain whose cursor is in the ring takes the first `want` pending samples and leaves the others. -/
theorem Block.drain_pending (hh : st.head < st.nSlots.toNat) (ho : st.offset < st.slotSamples) :
    (st.drain p want).2 = (st.pending p).take want.toNat ∧
    (st.drain p want).1.pending p = (st.pending p).drop want.toNat :=
  drainLoop_pending p _ _ _ le_rfl hh ho

theorem Block.viewExists_iff : st.viewExists want = true ↔
    want = 0 ∨ st.used = 0 ∨ (st.head < st.nSlots.toNat ∧ st.offset < st.slotSamples) := by
  simp [Block.viewExists, Block.slotExists]

/-- Wherever the model lets a drain run, what it emits is the front of the pending samples. -/
theorem Block.drain_prefix_pending (hv : st.viewExists want = true) : (st.drain p want).2 <+: st.pending p := by
  rcases Block.viewExists_iff.1 hv with hw | hu | ⟨hh, ho⟩
  · simp [Block.drain_of_want_zero hw]
  · simp [Block.drain_of_used_zero hu]
  · rw [(Block.drain_pending hh ho).1]
    exact List.take_prefix _ _

/-- The drain of a PRODUCE whose hold is released: the block and the samples after ending the hold and priming (R142). -/
def State.releasedDrain (s : State) (want : Operand) : Block × List Sample :=
  (({ s.st with consWait := .none } : Block).prime s.params).drain s.params want

/-- The block that a released PRODUCE drains has the ring as it was. -/
theorem sameRing_released (st : Block) (p : Params) : SameRing st (({ st with consWait := .none } : Block).prime p) := by
  simp [SameRing]

theorem State.releasedDrain_prefix_pending (hv : s.st.viewExists want = true) :
    (s.releasedDrain want).2 <+: s.st.pending s.params := by
  rw [← Block.pending_of_sameRing s.params (sameRing_released s.st s.params)]
  apply Block.drain_prefix_pending
  simpa [Block.viewExists_iff, Block.slotSamples] using hv

theorem State.releasedDrain_pending (hh : s.st.head < s.st.nSlots.toNat) (ho : s.st.offset < s.st.slotSamples) :
    (s.releasedDrain want).2 = (s.st.pending s.params).take want.toNat ∧
    (s.releasedDrain want).1.pending s.params = (s.st.pending s.params).drop want.toNat := by
  rw [← Block.pending_of_sameRing s.params (sameRing_released s.st s.params)]
  exact Block.drain_pending (by simpa using hh) (by simpa [Block.slotSamples] using ho)

/-- A released PRODUCE changes the cursor, `primed` and its hold, and nothing else. -/
theorem State.releasedDrain_frame (s : State) (want : Operand) :
    { (s.releasedDrain want).1 with
      head := s.st.head, used := s.st.used, offset := s.st.offset, primed := s.st.primed,
      consWait := s.st.consWait } = s.st := by
  rw [State.releasedDrain, Block.drain_frame]
  simp

theorem State.releasedDrain_slots (s : State) (want : Operand) : (s.releasedDrain want).1.slots = s.st.slots := by
  simp [State.releasedDrain]

theorem State.releasedDrain_consWait (s : State) (want : Operand) : (s.releasedDrain want).1.consWait = .none := by
  simp [State.releasedDrain]

theorem State.releasedDrain_primed_iff : (s.releasedDrain want).1.primed = true ↔
    s.st.primed = true ∨ s.params.minPrefill ≤ s.st.used := by
  simp [State.releasedDrain, or_comm]

theorem State.produceReady_of_data (hl : s.st.life = .opened) (he : ¬ (s.st.used = 0 ∧ s.st.running = false))
    (hv : s.st.viewExists want = true) :
    s.produceReady want =
      .next (s.respond .consumer (Response.samples ((s.st.prime s.params).drain s.params want).2)
        ((s.st.prime s.params).drain s.params want).1) := by
  simp only [State.produceReady, hl, if_neg he, if_pos hv]

/-- A PRODUCE past its hold, on an open block that is not at end-of-stream, answers its drain (R142). -/
theorem exec_produce_of_released (hl : s.st.life = .opened) (hr : s.st.ready s.params = true)
    (he : ¬ (s.st.used = 0 ∧ s.st.running = false)) (hv : s.st.viewExists want = true) :
    exec (.produce want) s =
      .next (s.respond .consumer (Response.samples (s.releasedDrain want).2) (s.releasedDrain want).1) :=
  (if_pos hr).trans (State.produceReady_of_data (s := s.withConsWait .none) hl he hv)

/-! ### Where the pending samples stand (R50, R52, R60) -/

/-- A sample's four bytes follow the address of its first one. -/
theorem Block.slotSample_eq (st : Block) (p : Params) (slot i : Nat) :
    st.slotSample p slot i =
      convert p (st.storageByte (st.slotAddr slot (4 * i))) (st.storageByte (st.slotAddr slot (4 * i) + 1))
        (st.storageByte (st.slotAddr slot (4 * i) + 2)) (st.storageByte (st.slotAddr slot (4 * i) + 3)) := rfl

/-- Settles O35: the drain takes the pending samples from the front, and `Block.pending_getElem?` says where each
stands. -/
theorem produceDrainsOldestSamples : Obligations.ProduceDrainsOldestSamples := by
  intro s want hl hr he hh ho
  obtain ⟨hout, hleft⟩ := State.releasedDrain_pending (want := want) hh ho
  have hlen : ((s.st.pending s.params).take want.toNat).length = min want.toNat s.st.available := by simp
  have hexec := exec_produce_of_released hl (Block.ready_iff.2 hr) he
    (Block.viewExists_iff.2 (.inr (.inr ⟨hh, ho⟩)) : s.st.viewExists want = true)
  refine ⟨_, hexec, ?_, hlen, fun k hk => ?_, hleft, s.releasedDrain_consWait want, State.releasedDrain_primed_iff,
    s.releasedDrain_frame want, Block.storageByte_congr (s.releasedDrain_slots want)⟩
  · rw [← hlen, ← hout]
    exact answered_respond s .consumer _ _
  · obtain ⟨hkw, hka⟩ := lt_min_iff.1 hk
    rw [List.getElem?_take_of_lt hkw, Block.pending_getElem? _ _ hka, Block.slotSample_eq]
    rfl

/-- The payload of a PRODUCE that answers is the front of the pending samples: a fault and an end-of-stream carry none. -/
theorem ExecCase.payload_prefix_pending (he : ExecCase s (.produce want) t) {r : Response}
    (hout : t.io.consOut = r :: s.io.consOut) : r.payload <+: s.st.pending s.params := by
  cases he with
  | produceHolds => exact absurd hout.symm (List.cons_ne_self r _)
  | produceClosed | endOfStream =>
    obtain rfl := (List.cons.inj hout).1
    exact List.nil_prefix
  | drained _ _ _ _ hv =>
    obtain rfl := (List.cons.inj hout).1
    exact State.releasedDrain_prefix_pending hv

/-- Settles O44. -/
theorem lanesAreIndependent : Obligations.LanesAreIndependent := by
  refine ⟨fun s t want r k z hexec hout hz => ?_,
    fun p bytes => ⟨blockSamples_length p bytes, fun i _ _ _ _ => blockSamples_getElem? p bytes i⟩⟩
  have hpre := (exec_cases hexec).payload_prefix_pending hout
  obtain ⟨hk, rfl⟩ := List.getElem?_eq_some_iff.1 hz
  have hka : k < s.st.available := hk.trans_le (by simpa using hpre.length_le)
  have hget := List.prefix_iff_getElem?.1 hpre k hk
  rw [Block.pending_getElem? _ _ hka, Block.slotSample_eq] at hget
  exact (Option.some.inj hget).symm

/-! ### The bytes of an output payload (R53, R79) -/

theorem wordBytes_getElem? (w : Word) {k : Nat} (hk : k < 4) :
    (wordBytes w)[k]? = some (w.extractLsb' (8 * k) 8) := by
  interval_cases k <;> rfl

theorem Sample.bytes_length (z : Sample) : z.bytes.length = 8 := rfl

theorem Sample.bytes_re (z : Sample) {k : Nat} (hk : k < 4) : z.bytes[k]? = some (z.re.extractLsb' (8 * k) 8) := by
  rw [Sample.bytes, List.getElem?_append_left hk, wordBytes_getElem? _ hk]

theorem Sample.bytes_im (z : Sample) {k : Nat} (hk : k < 4) : z.bytes[4 + k]? = some (z.im.extractLsb' (8 * k) 8) := by
  rw [Sample.bytes, List.getElem?_append_right (Nat.le_add_right 4 k), ← wordBytes_getElem? _ hk]
  congr 1
  exact Nat.add_sub_cancel_left 4 k

theorem Response.payloadBytes_length (r : Response) : r.payloadBytes.length = 8 * r.payload.length := by
  simp [Response.payloadBytes, List.length_flatMap, Sample.bytes_length, Nat.mul_comm]

/-- Byte `8 * i + j` of a row of samples is byte `j` of sample `i`. -/
theorem flatMap_bytes_getElem? {z : Sample} {j : Nat} (hj : j < 8) {zs : List Sample} {i : Nat} (hz : zs[i]? = some z) :
    (zs.flatMap Sample.bytes)[8 * i + j]? = z.bytes[j]? := by
  induction zs generalizing i with
  | nil => simp at hz
  | cons y ys ih =>
    cases i with
    | zero =>
      obtain rfl : y = z := by simpa using hz
      rw [List.flatMap_cons, Nat.mul_zero, Nat.zero_add, List.getElem?_append_left hj]
    | succ i =>
      have hpast : 8 * (i + 1) + j = y.bytes.length + (8 * i + j) := by
        rw [Sample.bytes_length]
        omega
      rw [List.flatMap_cons, hpast, List.getElem?_append_right (Nat.le_add_right _ _), Nat.add_sub_cancel_left]
      exact ih (by simpa using hz)

/-- Settles O45. -/
theorem outputLayout : Obligations.OutputLayout := by
  refine fun r i z hz => ⟨r.payloadBytes_length, fun k hk => ?_, fun k hk => ?_⟩
  · rw [Response.payloadBytes, flatMap_bytes_getElem? (by omega) hz, z.bytes_re hk]
  · rw [Response.payloadBytes, Nat.add_assoc, flatMap_bytes_getElem? (by omega) hz, z.bytes_im hk]

end Sys2Proof.Machine
end

section
/-! PROOFS. The encoding of spec/30_encoding.md: decode against encode (R71 to R74), the order of the failing checks
(R82), the rows of the opcode map (R74), and the assembler (R80, R81). -/

namespace Sys2Proof

variable {p : Port} {w : Word} {op : Opcode} {i : Instr}

/-! ### Decode and encode agree (R71 to R74) -/

@[simp] theorem decode_encode (i : Instr) : decode (encode i) = .instr i := by
  simp [decode]

theorem decode_of_opcode (h : opcodeOf (opField w) = some op) :
    decode w = decodeOperand op (immField w) := by
  simp only [decode, h]

theorem decodeOn_of_opcode (h : opcodeOf (opField w) = some op) :
    decodeOn op.port w = decodeOperand op (immField w) := by
  simp only [decodeOn, h, if_true]

theorem decode_of_reserved (h : opcodeOf (opField w) = none) : decode w = .reject .reservedOpcode := by
  simp only [decode, h]

theorem encode_of_decode (h : decode w = .instr i) : encode i = w := by
  cases hop : opcodeOf (opField w) with
  | none => exact nomatch (decode_of_reserved hop).symm.trans h
  | some op =>
    rw [decode_of_opcode hop, ← decodeOn_of_opcode hop] at h
    exact (encode_of_decodeOn h).1

theorem decode_eq_instr_iff : decode w = .instr i ↔ w = encode i := by
  constructor
  · exact fun h => (encode_of_decode h).symm
  · rintro rfl
    exact decode_encode i

theorem decodeOn_eq_instr_iff : decodeOn p w = .instr i ↔ i.port = p ∧ w = encode i := by
  constructor
  · intro h
    obtain ⟨hw, hp⟩ := encode_of_decodeOn h
    exact ⟨hp, hw.symm⟩
  · rintro ⟨rfl, rfl⟩
    exact decodeOn_encode i

/-- Settles O1. -/
theorem encodingRoundTrip : Obligations.EncodingRoundTrip :=
  ⟨decode_encode, fun _ _ => encode_of_decode, fun _ _ _ => decodeOn_eq_instr_iff⟩

/-- Settles O4: each of the seven commands is decoded from its own encoding. -/
theorem writtenOutWordsDecode : Obligations.WrittenOutWordsDecode :=
  ⟨decodeOn_encode (.cfgBuffers 4), decodeOn_encode (.cfgBuflen 512), decodeOn_encode .openDevice,
    decodeOn_encode (.readReg 0xA), decodeOn_encode (.deliver 512), decodeOn_encode (.drvExit 15),
    decodeOn_encode (.produce 300), by decide⟩

/-! ### The checks of a word, in the order of R82 -/

/-- R75. -/
theorem opcodeOf_eq_none_iff {x : BitVec 4} : opcodeOf x = none ↔ x.toNat = 0 ∨ 0xB ≤ x.toNat := by
  revert x; decide

/-- R73: the ports that accept an `op` field, as ranges. -/
def Port.accepts (p : Port) (n : Nat) : Prop :=
  (p = .host ∧ 1 ≤ n ∧ n ≤ 7) ∨ (p = .producer ∧ (n = 8 ∨ n = 9)) ∨ (p = .consumer ∧ n = 0xA)

theorem Port.accepts_code_iff (p : Port) (op : Opcode) : p.accepts op.code.toNat ↔ op.port = p := by
  unfold Port.accepts
  cases op <;> cases p <;> decide

theorem Port.not_reserved_of_accepts {n : Nat} (h : p.accepts n) : ¬ (n = 0 ∨ 0xB ≤ n) := by
  rcases h with ⟨-, h1, h7⟩ | ⟨-, h8 | h9⟩ | ⟨-, hA⟩ <;> omega

/-- R76: an operand that must be 0 and is not. -/
def Opcode.rejectsOperand (op : Opcode) (imm : Operand) : Prop := op.operandMustBeZero = true ∧ imm ≠ 0

theorem Opcode.rejectsOperand_iff (op : Opcode) (imm : Operand) :
    op.rejectsOperand imm ↔ 3 ≤ op.code.toNat ∧ op.code.toNat ≤ 6 ∧ imm ≠ 0 := by
  have hrange : op.operandMustBeZero = true ↔ 3 ≤ op.code.toNat ∧ op.code.toNat ≤ 6 := by cases op <;> decide
  rw [Opcode.rejectsOperand, hrange, and_assoc]

theorem decodeOn_of_reserved (h : opcodeOf (opField w) = none) : decodeOn p w = .reject .reservedOpcode := by
  simp only [decodeOn, h]

theorem decodeOn_of_wrongPort (h : opcodeOf (opField w) = some op) (hp : op.port ≠ p) :
    decodeOn p w = .reject .wrongPort := by
  simp only [decodeOn, h, if_neg hp]

theorem decodeOn_of_illegalOperand (h : opcodeOf (opField w) = some op) (hp : op.port = p)
    (hz : op.rejectsOperand (immField w)) : decodeOn p w = .reject .illegalOperand := by
  subst hp
  exact (decodeOn_of_opcode h).trans (if_pos hz)

theorem decodeOn_of_legal (h : opcodeOf (opField w) = some op) (hp : op.port = p)
    (hz : ¬ op.rejectsOperand (immField w)) :
    decodeOn p w = .instr (op.withOperand (immField w)) := by
  subst hp
  exact (decodeOn_of_opcode h).trans (if_neg hz)

/-- Settles O2, by the three checks in order: a known opcode, its port, its operand. -/
theorem firstFailingCheckRejects : Obligations.FirstFailingCheckRejects := by
  intro p w op reserved accepted
  cases hop : opcodeOf (opField w) with
  | none =>
    have hreserved : reserved := opcodeOf_eq_none_iff.1 hop
    have hnot : ¬ accepted := fun h => Port.not_reserved_of_accepts h hreserved
    simp [decodeOn_of_reserved hop, hreserved, hnot]
  | some o =>
    have hcode : o.code.toNat = op := congrArg BitVec.toNat (code_of_opcodeOf hop)
    have hport : accepted ↔ o.port = p := by rw [← p.accepts_code_iff, hcode, Port.accepts]
    have hreserved : ¬ reserved := fun h => nomatch (opcodeOf_eq_none_iff.2 h).symm.trans hop
    have hzero : (3 ≤ op ∧ op ≤ 6 ∧ immField w ≠ 0) ↔ o.rejectsOperand (immField w) := by
      rw [o.rejectsOperand_iff, hcode]
    rw [hport, hzero]
    by_cases hp : o.port = p
    · by_cases hz : o.rejectsOperand (immField w)
      · simp [decodeOn_of_illegalOperand hop hp hz, hreserved, hp, hz]
      · simp [decodeOn_of_legal hop hp hz, hreserved, hp, hz]
    · simp [decodeOn_of_wrongPort hop hp, hreserved, hp]

/-! ### The rows of the opcode map (R74) -/

theorem word_ext_iff {v w : Word} : v = w ↔ opField v = opField w ∧ immField v = immField w := by
  constructor
  · rintro rfl
    exact ⟨rfl, rfl⟩
  · rintro ⟨hop, himm⟩
    rw [← opField_append_immField v, hop, himm, opField_append_immField]

theorem opField_and (v w : Word) : opField (v &&& w) = opField v &&& opField w := BitVec.extractLsb'_and ..
theorem immField_and (v w : Word) : immField (v &&& w) = immField v &&& immField w := BitVec.extractLsb'_and ..

/-- The row of an opcode. -/
def Opcode.row (op : Opcode) : OpcodeRow :=
  ⟨op, packWord op 0, if op.operandMustBeZero = true then 0xFFFFFFFF else 0xF0000000⟩

theorem mem_opcodeRows_iff {r : OpcodeRow} : r ∈ opcodeRows ↔ ∃ op : Opcode, r = op.row := by
  constructor
  · exact fun h => ⟨r.opcode, (by decide : ∀ r ∈ opcodeRows, r = r.opcode.row) r h⟩
  · rintro ⟨op, rfl⟩
    cases op <;> decide

@[simp] theorem Opcode.opField_row_mask (op : Opcode) : opField op.row.mask = BitVec.allOnes 4 := by
  cases op <;> rfl

theorem Opcode.immField_row_mask (op : Opcode) :
    immField op.row.mask = if op.operandMustBeZero = true then BitVec.allOnes 28 else 0 := by
  cases op <;> rfl

theorem Opcode.row_selects_iff_fields : op.row.selects w = true ↔
    opField w = op.code ∧ (op.operandMustBeZero = true → immField w = 0) := by
  have hfields : op.row.selects w = true ↔
      opField w &&& BitVec.allOnes 4 = op.code ∧ immField w &&& immField op.row.mask = 0 := by
    rw [OpcodeRow.selects, beq_iff_eq, word_ext_iff, opField_and, immField_and, op.opField_row_mask]
    simp [Opcode.row]
  rw [hfields, BitVec.and_allOnes, op.immField_row_mask]
  split
  · next hz => rw [BitVec.and_allOnes]; simp only [hz, forall_const]
  · next hz => simp [hz]

theorem Opcode.encode_withOperand (op : Opcode) (imm : Operand) :
    encode (op.withOperand imm) = packWord op (if op.operandMustBeZero = true then 0 else imm) := by
  cases op <;> rfl

@[simp] theorem Opcode.opcode_withOperand (op : Opcode) (imm : Operand) : (op.withOperand imm).opcode = op := by
  cases op <;> rfl

@[simp] theorem Instr.withOperand_operand (i : Instr) : i.opcode.withOperand i.operand = i := by
  cases i <;> rfl

/-- A row selects exactly the words of its opcode's commands. -/
theorem Opcode.row_selects_iff : op.row.selects w = true ↔ decode w = .instr (op.withOperand (immField w)) := by
  rw [op.row_selects_iff_fields, decode_eq_instr_iff, word_ext_iff, op.encode_withOperand]
  simp

/-- Settles O3: a row selects the words that decode to its commands, and those have its opcode in their `op` field. -/
theorem oneRowSelectsEachCommand : Obligations.OneRowSelectsEachCommand := by
  refine ⟨fun w r hr hs => ?_, fun w i hd => ?_, fun w r r' hr hr' hs hs' => ?_⟩
  · obtain ⟨op, rfl⟩ := mem_opcodeRows_iff.1 hr
    exact op.row_selects_iff.1 hs
  · obtain rfl := decode_eq_instr_iff.1 hd
    exact ⟨i.opcode.row, mem_opcodeRows_iff.2 ⟨_, rfl⟩, Opcode.row_selects_iff.2 (by simp), rfl⟩
  · obtain ⟨op, rfl⟩ := mem_opcodeRows_iff.1 hr
    obtain ⟨op', rfl⟩ := mem_opcodeRows_iff.1 hr'
    obtain ⟨hcode, -⟩ := Opcode.row_selects_iff_fields.1 hs
    obtain ⟨hcode', -⟩ := Opcode.row_selects_iff_fields.1 hs'
    have hop : op = op' := Option.some.inj (by rw [← opcodeOf_code, ← hcode, hcode', opcodeOf_code])
    rw [hop]

/-! ### The assembler (R80, R81) -/

theorem AsmLine.wf_iff {l : AsmLine} :
    l.wf = true ↔ l.operandFits = true ∧ l.operandPresent = true ∧ l.opcode.port = l.port := by
  simp [AsmLine.wf, AsmLine.portAccepts, and_assoc]

theorem assemble_of_wf {l : AsmLine} (h : l.wf = true) :
    assemble l = some (packWord l.opcode (BitVec.ofNat 28 (l.operand.getD 0))) := if_pos h

theorem assemble_of_not_wf {l : AsmLine} (h : ¬ l.wf = true) : assemble l = none := if_neg h

theorem AsmLine.wf_operand_iff {n : Nat} : AsmLine.wf ⟨p, op, some n⟩ = true ↔ n < 2 ^ 28 ∧ op.port = p := by
  simp [AsmLine.wf_iff, AsmLine.operandFits, AsmLine.operandPresent]

/-- A line with an operand that fits, on the port of its mnemonic. -/
theorem assemble_operand {n : Nat} (hn : n < 2 ^ 28) :
    assemble ⟨op.port, op, some n⟩ = some (packWord op (BitVec.ofNat 28 n)) :=
  assemble_of_wf (AsmLine.wf_operand_iff.2 ⟨hn, rfl⟩)

/-- Settles O5. -/
theorem assemblerPacksOpAndOperand : Obligations.AssemblerPacksOpAndOperand := by
  refine fun p op n => ⟨?_, fun hn => ?_, fun hp o => ?_⟩
  · rintro rfl hn
    have himm : (BitVec.ofNat 28 n).toNat = n := by rw [BitVec.toNat_ofNat, Nat.mod_eq_of_lt hn]
    exact ⟨_, assemble_operand hn, opField_packWord _ _, by rw [immField_packWord, himm]⟩
  · exact assemble_of_not_wf fun h => (AsmLine.wf_operand_iff.1 h).1.not_ge hn
  · refine assemble_of_not_wf fun h => ?_
    obtain ⟨-, -, hport⟩ := AsmLine.wf_iff.1 h
    exact hp hport

theorem Pseudo.expand_port (q : Pseudo) {l : AsmLine} (h : l ∈ q.expand) : l.port = .host := by
  cases q with
  | configure | restart => obtain rfl | rfl := List.mem_pair.1 h <;> rfl
  | destroy | status => rw [List.mem_singleton.1 h]

/-- Settles O6. -/
theorem pseudoCommandsExpand : Obligations.PseudoCommandsExpand := by
  refine ⟨fun n b hn hb => ?_, by decide, by decide, by decide, fun q l => q.expand_port⟩
  exact congrArg₂ (fun v w => [v, w]) (assemble_operand (op := .cfgBuffers) hn) (assemble_operand (op := .cfgBuflen) hb)

end Sys2Proof
end

section
/-! PROOFS. R142(a): PRODUCE at end-of-stream. -/

namespace Sys2Proof.Machine

variable {s : State} {want : Operand}

theorem State.produceReady_of_endOfStream (hl : s.st.life = .opened) (he : s.st.used = 0 ∧ s.st.running = false) :
    s.produceReady want = .next (s.respond .consumer (Response.ok eosValue) s.st) := by
  simp only [State.produceReady, hl, if_pos he]

/-- A PRODUCE on an open, stopped, empty block is ready, ends its hold and answers end-of-stream (R141, R142). -/
theorem exec_produce_of_endOfStream (hl : s.st.life = .opened) (hu : s.st.used = 0) (hr : s.st.running = false) :
    exec (.produce want) s =
      .next (s.respond .consumer (Response.ok eosValue) { s.st with consWait := .none }) :=
  (if_pos (Block.ready_iff.2 (.inl hr))).trans
    (State.produceReady_of_endOfStream (s := s.withConsWait .none) hl ⟨hu, hr⟩)

/-- Settles O34. -/
theorem produceAnswersEndOfStream : Obligations.ProduceAnswersEndOfStream :=
  fun _ _ hl hu hr =>
    ⟨_, exec_produce_of_endOfStream hl hu hr, rfl, fun _ => rfl, answered_respond _ _ _ _⟩

end Sys2Proof.Machine
end

section
/-! PROOFS. The host port's commands (spec/40_control.md): R100, R101: the two pending values; R103: START; R104, R105:
STOP and its completion; R106, R107: CLOSE and its completion; R108: READ_REG; R201: OPEN and then START. -/

namespace Sys2Proof.Machine

variable {s : State} {st : Block} {i : Instr} {v : Word}

/-! ### Answers and what they leave unchanged -/

/-- A byte of storage depends on `slots` alone (R50). -/
theorem sameStorage_respond {b : Block} (p : Port) (r : Response) (h : b.slots = s.st.slots) :
    SameStorage s (s.respond p r b) := fun a => by
  simp only [State.respond_st, Block.storageByte, h]

/-- `answered_respond` with the response written out, as the statements have it. -/
theorem answered_respond_ok (s : State) (p : Port) (v : Word) (b : Block) :
    Answered s (s.respond p (Response.ok v) b) p ⟨false, v, []⟩ := answered_respond s p _ b

/-- An answer that leaves `st`: what STOP and CLOSE give where there is nothing to do, and READ_REG for a register. -/
theorem answers_unchanged (h : exec i s = .next (s.respond .host (Response.ok v) s.st)) :
    ∃ t, exec i s = .next t ∧ t.st = s.st ∧ SameStorage s t ∧ Answered s t .host ⟨false, v, []⟩ :=
  ⟨_, h, rfl, sameStorage_respond _ _ rfl, answered_respond_ok s .host v s.st⟩

/-! ### CFG_BUFFERS and CFG_BUFLEN (R100, R101) -/

/-- Settles O14. -/
theorem cfgBuffersStoresCount : Obligations.CfgBuffersStoresCount := fun n s =>
  ⟨s.respond .host (Response.ok 0) { s.st with cfgBuffers := legalBuffers s.params n }, rfl, rfl, rfl,
    sameStorage_respond _ _ rfl, answered_respond_ok s .host 0 _, rfl⟩

/-- R101 as the statement spells it: the operand 0 as a number. -/
theorem legalBuflen_eq (p : Params) (b : Operand) :
    legalBuflen p b = if b.toNat = 0 ∨ b.toNat % p.buflenGranule ≠ 0 then p.buflenDefault else b := by
  have hzero : b = 0 ↔ b.toNat = 0 := BitVec.toNat_inj.symm
  simp only [legalBuflen, hzero]

/-- Settles O15. -/
theorem cfgBuflenStoresLength : Obligations.CfgBuflenStoresLength := fun b s =>
  ⟨s.respond .host (Response.ok 0) { s.st with cfgBuflen := legalBuflen s.params b }, rfl, legalBuflen_eq s.params b,
    rfl, sameStorage_respond _ _ rfl, answered_respond_ok s .host 0 _, rfl⟩

/-! ### START (R103) -/

theorem exec_start_of_closed (hl : s.st.life = .closed) :
    exec .start s = .next (s.raiseFault .host .notOpen (encode .start)) := by
  simp only [exec, execStart, hl]

theorem exec_start_of_busy (hl : s.st.life = .opened) (ha : s.st.loopActive = true) :
    exec .start s = .next (s.raiseFault .host .busy (encode .start)) := by
  simp only [exec, execStart, hl, if_pos ha]

theorem exec_start_of_idle (hl : s.st.life = .opened) (ha : s.st.loopActive = false) :
    exec .start s = .next (s.respond .host (Response.ok 0) (s.st.beginStream s.params.skipK)) := by
  simp [exec, execStart, hl, ha]

/-- Settles O18. -/
theorem startBeginsAStream : Obligations.StartBeginsAStream := by
  refine fun s hl ha => ⟨_, exec_start_of_idle hl ha, ?_⟩
  simpa [answered_respond_ok] using
    sameStorage_respond .host (Response.ok 0) (s.st.beginStream_slots s.params.skipK)

/-- Settles O19. -/
theorem startFaultsInOrder : Obligations.StartFaultsInOrder :=
  ⟨fun s hl => ⟨_, exec_start_of_closed hl, faulted_raiseFault s _ _ _⟩,
    fun s hl ha => ⟨_, exec_start_of_busy hl ha, faulted_raiseFault s _ _ _⟩⟩

/-! ### STOP and CLOSE (R104, R106) -/

theorem exec_stop_of_idle (h : s.st.life = .closed ∨ s.st.loopActive = false) :
    exec .stop s = .next (s.respond .host (Response.ok 0) s.st) := if_pos h

theorem exec_stop_of_active (hl : s.st.life = .opened) (ha : s.st.loopActive = true) :
    exec .stop s = .next { s with st := s.st.cancel .stopJoin } := if_neg (by simp [hl, ha])

theorem exec_close_of_closed (hl : s.st.life = .closed) :
    exec .close s = .next (s.respond .host (Response.ok 0) s.st) := by
  simp only [exec, execClose, hl]

theorem exec_close_of_active (hl : s.st.life = .opened) (ha : s.st.loopActive = true) :
    exec .close s = .next { s with st := s.st.cancel .closeJoin } := by
  simp only [exec, execClose, hl, if_pos ha]

theorem exec_close_of_idle (hl : s.st.life = .opened) (ha : s.st.loopActive = false) :
    exec .close s = .next (s.respond .host (Response.ok 0) s.st.free) := by
  simp [exec, execClose, hl, ha]

/-- What STOP and CLOSE share while the read loop is active: they cancel, hold and do not answer. -/
theorem cancels_and_holds {w : HostWait} (h : exec i s = .next { s with st := s.st.cancel w }) :
    ∃ t, exec i s = .next t ∧
      t.st.running = false ∧ t.st.cancelReq = true ∧ t.st.hostWait = w ∧
      { t.st with running := s.st.running, cancelReq := s.st.cancelReq, hostWait := s.st.hostWait } = s.st ∧
      SameStorage s t ∧ Unanswered s t :=
  ⟨_, h, rfl, rfl, rfl, rfl, fun _ => rfl, rfl, rfl⟩

/-- Settles O20. -/
theorem stopCancelsOrAnswers : Obligations.StopCancelsOrAnswers :=
  ⟨by decide, fun _ h => answers_unchanged (exec_stop_of_idle h),
    fun _ hl ha => cancels_and_holds (exec_stop_of_active hl ha)⟩

/-- Settles O21: the three cases of R106. -/
theorem closeCancelsOrFrees : Obligations.CloseCancelsOrFrees := by
  refine ⟨by decide, fun _ hl => answers_unchanged (exec_close_of_closed hl),
    fun _ hl ha => cancels_and_holds (exec_close_of_active hl ha), fun s hl ha => ⟨_, exec_close_of_idle hl ha, ?_⟩⟩
  simp [answered_respond_ok]

/-! ### The completion of a waiting STOP or CLOSE (R105, R107) -/

theorem step_of_stopJoin (hp : s.nextPick = .host) (hw : s.st.hostWait = .stopJoin) (ha : s.st.loopActive = false) :
    step s = .next s.tick.completeStop := by
  simp [step, hp, State.pickStep, State.hostStep, hw, ha]

theorem step_of_closeJoin (hp : s.nextPick = .host) (hw : s.st.hostWait = .closeJoin) (ha : s.st.loopActive = false) :
    step s = .next s.tick.completeClose := by
  simp [step, hp, State.pickStep, State.hostStep, hw, ha]

/-- Settles O22. -/
theorem joinCompletesAfterLoopExit : Obligations.JoinCompletesAfterLoopExit := by
  refine ⟨fun s hp hw ha => ⟨_, step_of_stopJoin hp hw ha, ?_⟩, fun s hp hw ha => ⟨_, step_of_closeJoin hp hw ha, ?_⟩⟩
  · simp [State.completeStop, answered_respond_ok]
  · simp [State.completeClose, answered_respond_ok]

/-! ### OPEN and then START (R201) -/

/-- The STATE register of an empty ring of an open block, the FAULT bit aside (R40): EMPTY and OPEN, and for a running
stream RUNNING and LOOP_ACTIVE with them. FULL is clear because the ring has a slot. -/
theorem Block.stateWord_of_emptyRing {streaming : Bool} (hl : st.life = .opened) (hu : st.used = 0)
    (hn : st.nSlots ≠ 0) (hp : st.primed = false) (hc : st.cancelReq = false) (hr : st.running = streaming)
    (ha : st.loopActive = streaming) :
    st.stateWord &&& 0xFFFFFFDF = bif streaming then 0x87 else 0x81 := by
  have hn : ¬ 0 = st.nSlots.toNat := fun h => hn (BitVec.toNat_inj.1 h.symm)
  simp only [Block.stateWord, Block.isFull, Block.isEmpty, hl, hu, hn, hp, hc, hr, ha, and_false, decide_true,
    decide_false]
  cases streaming <;> cases st.fault <;> rfl

theorem exec_openDevice_of_opens (hl : s.st.life = .closed) (ho : s.opens = true) :
    exec .openDevice s = .next (s.useOpenAnswer.respond .host (Response.ok 0) (s.st.allocate s.io.draws)) := by
  rw [exec_openDevice_of_closed hl, State.openClosed_of_opens ho]

/-- Settles O24: OPEN leaves the empty ring of `Block.allocate`, which START makes a running one. -/
theorem bootSequenceStartsAStream : Obligations.BootSequenceStartsAStream := fun _ hl hok hn hfits =>
  ⟨_, _, exec_openDevice_of_opens hl (State.opens_iff.2 ⟨hok, hfits⟩), exec_start_of_idle rfl rfl,
    Block.stateWord_of_emptyRing (streaming := false) rfl rfl hn rfl rfl rfl rfl,
    Block.stateWord_of_emptyRing (streaming := true) rfl rfl hn rfl rfl rfl rfl, rfl, rfl⟩

/-! ### READ_REG (R39, R108) -/

/-- The register map of R39: each selector with its register. -/
def Block.registerMap (st : Block) : List (Operand × Word) :=
  [(0x0, st.stateWord), (0x1, st.cfgBuffers.setWidth 32), (0x2, st.cfgBuflen.setWidth 32),
   (0x3, st.nSlots.setWidth 32), (0x4, st.buflen.setWidth 32), (0x5, BitVec.ofNat 32 st.head),
   (0x6, BitVec.ofNat 32 st.used),
   (0x7, if st.life = .closed then 0 else BitVec.ofNat 32 ((st.head + st.used) % st.nSlots.toNat)),
   (0x8, BitVec.ofNat 32 st.offset), (0x9, BitVec.ofNat 32 st.skipRem), (0xA, st.ovfCount),
   (0xB, st.drvStatus.setWidth 32), (0xC, st.faultCause.setWidth 32), (0xD, st.faultInfo)]

theorem Block.ofNat_tailRegister (st : Block) :
    BitVec.ofNat 32 st.tailRegister =
      if st.life = .closed then 0 else BitVec.ofNat 32 ((st.head + st.used) % st.nSlots.toNat) := by
  cases hl : st.life <;> simp [Block.tailRegister, Block.tail, hl]

theorem Block.register_of_mem_registerMap : ∀ e ∈ st.registerMap, st.register e.1 = some e.2 := by
  simp [Block.registerMap, Block.register, Block.ofNat_tailRegister]

theorem Block.register_of_gt {sel : Operand} (h : 0xD < sel.toNat) : st.register sel = none := by
  unfold Block.register
  split
  case h_15 => rfl
  all_goals exact absurd h (by decide)

theorem exec_readReg_of_some {sel : Operand} (h : s.st.register sel = some v) :
    exec (.readReg sel) s = .next (s.respond .host (Response.ok v) s.st) := by
  simp only [exec, execReadReg, h]

theorem exec_readReg_of_none {sel : Operand} (h : s.st.register sel = none) :
    exec (.readReg sel) s = .next (s.raiseFault .host .badReg (encode (.readReg sel))) := by
  simp only [exec, execReadReg, h]

/-- Settles O25. -/
theorem readRegAnswersTheRegister : Obligations.ReadRegAnswersTheRegister :=
  ⟨fun _ _ _ hmem => answers_unchanged (exec_readReg_of_some (Block.register_of_mem_registerMap _ hmem)),
    fun s _ hsel => ⟨_, exec_readReg_of_none (Block.register_of_gt hsel), faulted_raiseFault s _ _ _⟩⟩

end Sys2Proof.Machine
end

section
/-! PROOFS. The producer port's commands (spec/41_producer.md): R120 to R124: DELIVER and DRV_EXIT, case by case; R125: the
port answers at every step; R142(d): the end of the stream stays until a START. -/

namespace Sys2Proof.Machine

variable {s t : State} {st : Block} {i : Instr} {len : Operand}

/-! ### Every step of the port answers (R125) -/

/-- A command of the producer port answers and leaves the holds: the commands that may hold are of the other ports. -/
theorem ExecCase.producer_answers (he : ExecCase s i t) (hi : i.port = .producer) :
    ∃ r, t.io.prodOut = r :: s.io.prodOut ∧ t.io.prodCmds = s.io.prodCmds.tail ∧
      t.st.hostWait = s.st.hostWait ∧ t.st.consWait = s.st.consWait := by
  rcases he.ports with ⟨r, hout, hcmds, -, hh, hcw⟩ | ⟨-, ⟨rfl, -⟩ | ⟨rfl, -⟩ | ⟨_, rfl, -⟩⟩
  · rw [hi] at hout hcmds hcw
    exact ⟨r, hout, hcmds, hh, hcw⟩
  all_goals exact nomatch hi

/-- A fault leaves the holds (R181). -/
theorem Faulted.holds_kept {p : Port} {c : Cause} {w : Word} (h : Faulted s t p c w) :
    t.st.hostWait = s.st.hostWait ∧ t.st.consWait = s.st.consWait :=
  ⟨(congrArg Block.hostWait h.nothingElse :), (congrArg Block.consWait h.nothingElse :)⟩

/-- Settles O31: the command answers, or the port answers the fault of the failing check. -/
theorem producerPortNeverHolds : Obligations.ProducerPortNeverHolds := by
  intro s c cs hinv hp hc
  obtain ⟨hruns, hfaults⟩ := step_decodes (p := .producer) hp trivial hc
  have htaken : s.io.prodCmds.tail = cs := by rw [hc, List.tail_cons]
  rcases hd : decodeOn .producer c.word with i | r
  · obtain ⟨t, ht⟩ := exec_next (s := s.tick) hinv.block i
    obtain ⟨r, hout, hcmds, hholds⟩ := (exec_cases ht).producer_answers (encode_of_decodeOn hd).2
    exact ⟨t, r, (hruns i hd).trans ht, hout, hcmds.trans htaken, hholds⟩
  · obtain ⟨t, ht, hfault⟩ := hfaults r hd
    exact ⟨t, _, ht, hfault.answered.response, hfault.answered.taken.trans htaken,
      hfault.holds_kept⟩

/-! ### A stopped, empty ring (R121, R142) -/

/-- A command fills no stopped, empty ring: only a running stream pushes, and a PRODUCE finds the end of the stream. -/
theorem ExecCase.used_zero (he : ExecCase s i t) (hu : s.st.used = 0) (hr : s.st.running = false) : t.st.used = 0 := by
  cases he with
  | delivered _ _ _ hrun => simp [hr] at hrun
  | drained _ _ _ hdata => exact absurd ⟨hu, hr⟩ hdata
  | _ => simp [hu]

theorem StepCase.used_zero (h : StepCase s t) (hu : s.st.used = 0) (hr : s.st.running = false) : t.st.used = 0 := by
  cases h with
  | ran _ _ _ _ _ _ _ _ _ _ he => exact he.used_zero hu hr
  | retried _ _ _ _ he => exact he.used_zero hu hr
  | closeJoined | reset => rfl
  | idle | rejected | stopJoined | timedOut => simp [hu]

/-- Settles O57. -/
theorem endOfStreamStaysUntilStart : Obligations.EndOfStreamStaysUntilStart := by
  intro s t hstep hu hr
  have hcase := step_cases hstep
  have hempty := hcase.used_zero hu hr
  refine ⟨hempty, ?_⟩
  rcases hcase.start_or_no_flag_set with ⟨hp, -, hstart⟩ | ⟨hrun, -⟩
  · exact .inr ⟨hp, hstart⟩
  · have hstopped : t.st.running = false := by simpa [hr] using hrun
    exact .inl ⟨hstopped, fun hl want => ⟨_, exec_produce_of_endOfStream hl hempty hstopped, answered_respond _ _ _ _⟩⟩

/-! ### DELIVER that stores nothing (R120, R121) -/

theorem sameStorage_raiseFault (s : State) (p : Port) (c : Cause) (w : Word) : SameStorage s (s.raiseFault p c w) :=
  sameStorage_respond p _ (s.st.recordFault_slots c w)

theorem exec_deliver_of_no_loop (ha : s.st.loopActive = false) :
    exec (.deliver len) s = .next (s.raiseFault .producer .drvProtocol (encode (.deliver len))) := if_pos ha

theorem exec_deliver_of_bad_length (ha : s.st.loopActive = true) (hb : len ≠ s.st.buflen) :
    exec (.deliver len) s = .next (s.raiseFault .producer .badLength (encode (.deliver len))) := by
  simp [exec, execDeliver, ha, hb]

/-- Settles O26. -/
theorem deliverFaultsInOrder : Obligations.DeliverFaultsInOrder :=
  ⟨fun s _ ha => ⟨_, exec_deliver_of_no_loop ha, faulted_raiseFault s _ _ _, sameStorage_raiseFault s _ _ _⟩,
    fun s _ ha hb => ⟨_, exec_deliver_of_bad_length ha hb, faulted_raiseFault s _ _ _, sameStorage_raiseFault s _ _ _⟩⟩

theorem exec_deliver_of_cancelled (ha : s.st.loopActive = true) (hr : s.st.running = false) :
    exec (.deliver s.st.buflen) s = .next (s.respond .producer (Response.ok 0) s.st) := by
  simp [exec, execDeliver, ha, hr]

theorem exec_deliver_of_skipped (ha : s.st.loopActive = true) (hr : s.st.running = true) (hk : 0 < s.st.skipRem) :
    exec (.deliver s.st.buflen) s =
      .next (s.respond .producer (Response.ok 0) { s.st with skipRem := s.st.skipRem - 1 }) := by
  simp [exec, execDeliver, ha, hr, hk]

/-- Settles O27. -/
theorem deliverDiscards : Obligations.DeliverDiscards :=
  ⟨fun s ha hr => ⟨_, exec_deliver_of_cancelled ha hr, rfl, sameStorage_respond _ _ rfl, answered_respond_ok s _ _ _⟩,
    fun s ha hr hk => ⟨_, exec_deliver_of_skipped ha hr hk, rfl, rfl, sameStorage_respond _ _ rfl,
      answered_respond_ok s _ _ _⟩⟩

/-! ### DELIVER that pushes (R122, R123) -/

theorem exec_deliver_of_push (ha : s.st.loopActive = true) (hr : s.st.running = true) (hk : s.st.skipRem = 0)
    (ht : s.st.tail < s.st.nSlots.toNat) :
    exec (.deliver s.st.buflen) s =
      .next (s.respond .producer (Response.ok 0) (s.st.push (s.deliveredPayload s.st.buflen))) := by
  simp [exec, execDeliver, State.deliverPush, Block.slotExists, ha, hr, hk, ht]

/-- A byte of the slot at `tail` reads after a push as the delivered one (R54, R122). -/
theorem Pushes.storageByte_inside (h : Pushes s t i) {j : Nat} {b : Byte}
    (hb : (s.deliveredPayload s.st.buflen)[j]? = some b) : t.st.storageByte (s.st.slotAddr s.st.tail j) = b := by
  obtain ⟨hj, rfl⟩ := List.getElem?_eq_some_iff.1 hb
  have haddr : s.st.slotAddr s.st.tail j = s.st.slotAddr s.st.tail 0 + j := rfl
  rw [Block.storageByte_congr h.written, haddr, Block.storageByte_slotWrite_inside _ (Nat.le_add_right _ _) (by omega)]
  simp only [Nat.add_sub_cancel_left]

/-- What the two ring cases of DELIVER share: it answers, the slot at `tail` holds the payload of the current command, and
every other byte reads as before. -/
theorem deliver_writes_slot {c : Command} {cs : List Command} (ha : s.st.loopActive = true) (hr : s.st.running = true)
    (hk : s.st.skipRem = 0) (ht : s.st.tail < s.st.nSlots.toNat) (hc : s.io.prodCmds = c :: cs)
    (hlen : c.payload.length = s.st.buflen.toNat) :
    ∃ t, exec (.deliver s.st.buflen) s = .next t ∧ t.st = s.st.push c.payload ∧
      (∀ j b, c.payload[j]? = some b → t.st.storageByte (s.st.slotAddr s.st.tail j) = b) ∧
      (∀ a, a < s.st.slotAddr s.st.tail 0 ∨ s.st.slotAddr s.st.tail 0 + s.st.buflen.toNat ≤ a →
        t.st.storageByte a = s.st.storageByte a) ∧
      Answered s t .producer ⟨false, 0, []⟩ := by
  have hp := State.deliveredPayload_eq hc hlen
  have hpush : Pushes s (s.respond .producer (Response.ok 0) (s.st.push (s.deliveredPayload s.st.buflen)))
      (.deliver s.st.buflen) := ⟨rfl, hr, hk, s.st.push_slots _⟩
  exact ⟨_, exec_deliver_of_push ha hr hk ht, congrArg s.st.push hp, fun j b hb => hpush.storageByte_inside (hp ▸ hb),
    fun a hout => hpush.storageByte_outside hout, answered_respond_ok s _ _ _⟩

theorem Block.push_of_used_lt (bytes : List Byte) (h : st.used < st.nSlots.toNat) :
    st.push bytes = { st.slotWrite st.tail bytes with used := st.used + 1 } := if_neg h.ne

theorem Block.push_of_full (bytes : List Byte) (h : st.used = st.nSlots.toNat) :
    st.push bytes = (st.slotWrite st.tail bytes).dropOldest := if_pos h

/-- R123: in a full ring `tail` is `head`. -/
theorem Block.tail_of_full (hf : st.used = st.nSlots.toNat) (hh : st.head < st.nSlots.toNat) : st.tail = st.head := by
  rw [Block.tail, hf, Nat.add_mod_right, Nat.mod_eq_of_lt hh]

/-- Settles O28. -/
theorem deliverPushesAtTail : Obligations.DeliverPushesAtTail := by
  intro s c cs ha hr hk hu hc hlen
  have ht : s.st.tail < s.st.nSlots.toNat := Nat.mod_lt _ (by omega)
  obtain ⟨t, hexec, hst, hin, hout, hans⟩ := deliver_writes_slot ha hr hk ht hc hlen
  rw [Block.push_of_used_lt _ hu] at hst
  exact ⟨t, hexec, by rw [hst], hin, hout, by rw [hst]; rfl, hans⟩

/-- Settles O29. -/
theorem deliverOverflowDropsOldest : Obligations.DeliverOverflowDropsOldest := by
  intro s c cs ha hr hk hf hh hc hlen
  have htail := Block.tail_of_full hf hh
  obtain ⟨t, hexec, hst, hin, hout, hans⟩ := deliver_writes_slot ha hr hk (htail ▸ hh) hc hlen
  rw [Block.push_of_full _ hf] at hst
  rw [htail] at hin hout
  refine ⟨t, hexec, by simp [hst], by simp [hst], by simp [hst], ?_, hin, hout, by rw [hst]; rfl, hans⟩
  simp [hst, BitVec.toNat_add]

/-! ### DRV_EXIT (R124) -/

theorem exec_drvExit_of_loop {x : Operand} (ha : s.st.loopActive = true) :
    exec (.drvExit x) s = .next (s.respond .producer (Response.ok 0) (s.st.loopExit x)) := if_neg (by simp [ha])

theorem exec_drvExit_of_no_loop {x : Operand} (ha : s.st.loopActive = false) :
    exec (.drvExit x) s = .next (s.raiseFault .producer .drvProtocol (encode (.drvExit x))) := if_pos ha

/-- Settles O30. -/
theorem drvExitEndsTheLoop : Obligations.DrvExitEndsTheLoop :=
  ⟨fun s _ ha => ⟨_, exec_drvExit_of_loop ha, rfl, rfl, rfl, rfl, sameStorage_respond _ _ rfl,
      answered_respond_ok s _ _ _⟩,
    fun s _ ha => ⟨_, exec_drvExit_of_no_loop ha, faulted_raiseFault s _ _ _⟩⟩

end Sys2Proof.Machine
end

section
/-! PROOFS. The consumer port's command PRODUCE (spec/42_consumer.md): R140, R141, R148: its hold and NOT_OPEN; R143, R145:
the cursor after a drain; R147: the timeout step; R203: a ring smaller than the threshold. -/

namespace Sys2Proof.Machine

variable {s t : State} {p : Params} {st : Block} {i : Instr} {want : Operand}

/-! ### The hold of a PRODUCE (R141, R148) -/

/-- What keeps the prefill hold: the stream runs below the threshold, and either it never primed or every call waits. -/
theorem Block.not_ready_of_below (hr : st.running = true) (hu : st.used < p.minPrefill)
    (hm : st.primed = false ∨ p.prefillMode = .everyCall) : st.ready p = false := by
  rw [Bool.eq_false_iff, ne_eq, Block.ready_iff]
  rintro (hstopped | hfilled | ⟨honce, hprimed⟩)
  · simp [hr] at hstopped
  · omega
  · rcases hm with hm | hm
    · simp [hm] at hprimed
    · simp [hm] at honce

/-- A PRODUCE that is not ready records its hold, changes nothing else and does not answer. -/
theorem exec_produce_holds (hr : s.st.ready s.params = false) :
    ∃ t, exec (.produce want) s = .next t ∧ t.st.consWait = .produce want ∧
      { t.st with consWait := s.st.consWait } = s.st ∧ SameStorage s t ∧ Unanswered s t :=
  ⟨_, execProduce_of_not_ready hr, rfl, rfl, fun _ => rfl, rfl, rfl⟩

/-- Settles O32. -/
theorem produceHoldsBelowPrefill : Obligations.ProduceHoldsBelowPrefill :=
  fun _ _ hr hu hm => exec_produce_holds (Block.not_ready_of_below hr hu hm)

/-! ### PRODUCE while closed (R140) -/

theorem State.produceReady_of_closed (hl : s.st.life = .closed) :
    s.produceReady want = .next (s.raiseFault .consumer .notOpen (encode (.produce want))) := by
  simp only [State.produceReady, hl]

/-- A stopped stream releases the hold before the block is found closed (R141, R142). -/
theorem exec_produce_of_closed (hl : s.st.life = .closed) (hr : s.st.running = false) :
    exec (.produce want) s =
      .next ((s.withConsWait .none).raiseFault .consumer .notOpen (encode (.produce want))) :=
  (if_pos (Block.ready_iff.2 (.inl hr))).trans (State.produceReady_of_closed (s := s.withConsWait .none) hl)

/-- Settles O33. -/
theorem produceFaultsWhileClosed : Obligations.ProduceFaultsWhileClosed :=
  fun _ _ hl hr => ⟨_, exec_produce_of_closed hl hr, faulted_raiseFault _ _ _ _⟩

/-! ### The cursor after a drain (R143, R145) -/

/-- A drain emits `want` samples, or as many as are available (R143, R146). -/
theorem Block.drain_length (hh : st.head < st.nSlots.toNat) (ho : st.offset < st.slotSamples) :
    (st.drain p want).2.length = min want.toNat st.available := by
  rw [(Block.drain_pending hh ho).1, List.length_take, Block.pending_length]

/-- Settles O36. -/
theorem drainMovesTheCursor : Obligations.DrainMovesTheCursor :=
  fun st p want hu hh ho =>
    ⟨Block.drain_length hh ho, drainLoop_cursor p st.used want.toNat st le_rfl hu hh ho⟩

/-! ### The timeout step (R147) -/

theorem step_of_timeout (hp : s.nextPick = .timeout) : step s = .next s.tick.prefillTimeout := by
  simp only [step, hp, State.pickStep]

theorem State.prefillTimeout_of_held (hw : s.st.consWait = .produce want) (ht : s.params.prefillTimeout = true)
    (hr : s.st.ready s.params = false) :
    s.prefillTimeout = s.respond .consumer (Response.ok 0) { s.st with consWait := .none } := by
  simp only [State.prefillTimeout, hw]
  exact if_pos ⟨ht, hr⟩

theorem State.prefillTimeout_of_off (ht : s.params.prefillTimeout = false) : s.prefillTimeout = s := by
  unfold State.prefillTimeout
  split
  · rfl
  · exact if_neg (by simp [ht])

/-- Settles O37: a held PRODUCE that is not ready times out, and without PREFILL_TIMEOUT the pick is idle. -/
theorem prefillTimeoutStep : Obligations.PrefillTimeoutStep := by
  refine ⟨fun s want hp hw ht hr => ⟨_, step_of_timeout hp, ?_⟩, fun s hp ht => ?_⟩
  · rw [State.prefillTimeout_of_held (s := s.tick) hw ht hr]
    exact ⟨rfl, answered_respond_ok s.tick .consumer 0 _⟩
  · rw [step_of_timeout hp, State.prefillTimeout_of_off (s := s.tick) ht]

/-! ### A ring smaller than the threshold (R203, R212) -/

/-- Only a PRODUCE that finds the threshold met primes (R142(c)). -/
theorem ExecCase.not_primed (he : ExecCase s i t) (hu : s.st.used < s.params.minPrefill)
    (hp : s.st.primed = false) : t.st.primed = false := by
  cases he with
  | drained => simp [hp, hu]
  | _ => simp [hp]

theorem StepCase.not_primed (h : StepCase s t) (hu : s.st.used < s.params.minPrefill)
    (hp : s.st.primed = false) : t.st.primed = false := by
  cases h with
  | ran _ _ _ _ _ _ _ _ _ _ he => exact he.not_primed hu hp
  | retried _ _ _ _ he => exact he.not_primed hu hp
  | closeJoined | reset => rfl
  | idle | rejected | stopJoined | timedOut => simp [hp]

/-- Settles O38: the ring holds at most `N` blocks, so it never meets the threshold. -/
theorem smallRingHoldsTheConsumer : Obligations.SmallRingHoldsTheConsumer := by
  intro s hinv hl hsmall hp
  obtain ⟨-, -, -, -, hcap, -⟩ := hinv.block.openGeometry hl
  have hu : s.st.used < s.params.minPrefill := hcap.trans_lt hsmall
  refine ⟨fun t hstep => (step_cases hstep).not_primed hu hp, fun hr want => ?_⟩
  obtain ⟨t, hexec, hhold, -, -, hquiet⟩ := exec_produce_holds (Block.not_ready_of_below hr hu (.inl hp))
  exact ⟨t, hexec, hhold, hquiet⟩

end Sys2Proof.Machine
end

section
/-! The converter: the value of a code, the three fields of its converted pattern, and the rational number the pattern
stands for (R160 to R164). -/

namespace Sys2Proof.Machine

/-! ### Codes and bytes (R52, R160, R161) -/

theorem sint16_eq_ite (h : Half) :
    sint16 h = if h.getLsbD 15 = true then (h.toNat : Int) - 65536 else (h.toNat : Int) := by
  have hmsb : h.msb = h.getLsbD 15 := BitVec.msb_eq_getLsbD_last h
  rw [sint16, BitVec.toInt_eq_msb_cond, hmsb]
  rfl

/-- Settles O40: bit 15 is the sign bit of two's complement. -/
theorem codesAreTwosComplement : Obligations.CodesAreTwosComplement :=
  fun h => ⟨sint16_eq_ite h, BitVec.le_toInt h, Int.le_of_lt_add_one (BitVec.toInt_lt (x := h))⟩

@[simp] theorem rawCode_little (b b' : Byte) : rawCode .little b b' = b' ++ b := rfl

@[simp] theorem rawCode_big (b b' : Byte) : rawCode .big b b' = b ++ b' := rfl

/-- Settles O43: each lane is the scaled code of its own two bytes. -/
theorem convertReadsItsBytes : Obligations.ConvertReadsItsBytes := by
  intro p b0 b1 b2 b3
  constructor
  · intro hlittle
    rw [convert, hlittle, rawCode_little, rawCode_little]
  · intro hbig
    rw [convert, hbig, rawCode_big, rawCode_big]

/-! ### The fields of a converted code (R164) -/

@[simp] theorem scaleCode_zero (k : Nat) : scaleCode k 0 = 0 := rfl

/-- The exponent `e` of a code is the only one with `2^e ≤ |v| < 2^(e+1)`, so the fields follow from these bounds. -/
theorem scaleCode_fields_of_bounds {h : Half} {k e : Nat} (hk : k ≤ 126) (hlo : 2 ^ e ≤ (sint16 h).natAbs)
    (hhi : (sint16 h).natAbs < 2 ^ (e + 1)) :
    e ≤ 15 ∧ (scaleCode k (sint16 h)).getLsbD 31 = decide (sint16 h < 0) ∧
      ((scaleCode k (sint16 h)).extractLsb' 23 8).toNat = e + 127 - k ∧
      ((scaleCode k (sint16 h)).extractLsb' 0 23).toNat = ((sint16 h).natAbs - 2 ^ e) * 2 ^ (23 - e) := by
  have hne : sint16 h ≠ 0 := Int.natAbs_pos.mp ((Nat.two_pow_pos e).trans_le hlo)
  obtain ⟨e', he', hlo', hhi', hcode, hfrac⟩ := scaleCode_fields k hne (natAbs_sint16_lt h)
  obtain rfl : e' = e :=
    (Nat.log_eq_of_pow_le_of_lt_pow hlo' hhi').symm.trans (Nat.log_eq_of_pow_le_of_lt_pow hlo hhi)
  rw [hcode]
  exact ⟨he', binary32_sign .., binary32_exponent _ _ (by omega), binary32_fraction _ _ hfrac⟩

/-- A fraction field of `(|v| - 2^e) · 2^(23-e)` is `(m - 1) · 2^23` of `|v| = m · 2^e`. -/
theorem fraction_mul_two_pow (n : Nat) {e : Nat} (he : e ≤ 15) :
    (n - 2 ^ e) * 2 ^ (23 - e) * 2 ^ e = (n - 2 ^ e) * 2 ^ 23 := by
  rw [mul_assoc, pow_sub_mul_pow 2 (he.trans (by decide))]

/-- Settles O42, at SCALE_SHIFT 15. -/
theorem conversionClosedForm : Obligations.ConversionClosedForm := by
  refine ⟨scaleCode_zero 15, fun h e hlo hhi => ?_⟩
  obtain ⟨he, hsign, hexp, hfrac⟩ := scaleCode_fields_of_bounds (k := 15) (by decide) hlo hhi
  refine ⟨?_, hexp, ?_⟩
  · rw [hsign, decide_eq_true_iff]
  · rw [hfrac, fraction_mul_two_pow _ he]

/-! ### The value of a converted code (R162, R163) -/

theorem signFactor_mul_natAbs (v : Int) : (if decide (v < 0) = true then -1 else 1) * (v.natAbs : Int) = v := by
  simp only [decide_eq_true_eq]
  split <;> omega

/-- The signed significand is `v` moved up to bit 23: no bit of the code is lost. -/
theorem normalSignificand_scaleCode {h : Half} {k e : Nat} (hk : k ≤ 126) (hlo : 2 ^ e ≤ (sint16 h).natAbs)
    (hhi : (sint16 h).natAbs < 2 ^ (e + 1)) :
    normalSignificand (scaleCode k (sint16 h)) * 2 ^ e = sint16 h * 2 ^ 23 := by
  obtain ⟨he, hsign, -, hfrac⟩ := scaleCode_fields_of_bounds hk hlo hhi
  have hmag : (2 ^ 23 + ((sint16 h).natAbs - 2 ^ e) * 2 ^ (23 - e)) * 2 ^ e = (sint16 h).natAbs * 2 ^ 23 := by
    rw [add_mul, fraction_mul_two_pow _ he, mul_comm (2 ^ 23), ← add_mul, Nat.add_sub_cancel' hlo]
  rw [normalSignificand, hsign, hfrac, mul_assoc]
  calc _ = (if decide (sint16 h < 0) = true then -1 else 1) * (((sint16 h).natAbs : Int) * 2 ^ 23) := by
        congr 1
        exact_mod_cast hmag
    _ = sint16 h * 2 ^ 23 := by rw [← mul_assoc, signFactor_mul_natAbs]

/-- A word with a nonzero exponent field is not +0.0, so its value is that of a normal number. -/
theorem binary32Value_of_exponent {w : Word} (hexp : 1 ≤ (w.extractLsb' 23 8).toNat) :
    binary32Value w = normalSignificand w * 2 ^ (w.extractLsb' 23 8).toNat / 2 ^ 150 := by
  refine if_neg ?_
  rintro rfl
  simp at hexp

theorem binary32Value_scaleCode {h : Half} {k e : Nat} (hk : k ≤ 126) (hlo : 2 ^ e ≤ (sint16 h).natAbs)
    (hhi : (sint16 h).natAbs < 2 ^ (e + 1)) :
    binary32Value (scaleCode k (sint16 h)) = (sint16 h : ℚ) / 2 ^ k := by
  obtain ⟨-, -, hexp, -⟩ := scaleCode_fields_of_bounds hk hlo hhi
  have hsig : (normalSignificand (scaleCode k (sint16 h)) : ℚ) * 2 ^ e = sint16 h * 2 ^ 23 := by
    exact_mod_cast normalSignificand_scaleCode hk hlo hhi
  rw [binary32Value_of_exponent (by omega), hexp, div_eq_div_iff (by positivity) (by positivity)]
  calc (normalSignificand (scaleCode k (sint16 h)) : ℚ) * 2 ^ (e + 127 - k) * 2 ^ k
      = normalSignificand (scaleCode k (sint16 h)) * 2 ^ e * 2 ^ 127 := by
        rw [mul_assoc, pow_sub_mul_pow 2 (by omega), pow_add, mul_assoc]
    _ = sint16 h * 2 ^ 150 := by
        rw [hsig, mul_assoc, ← pow_add]

/-- Settles O41: code 0 is +0.0; any other code keeps its whole value, with an exponent field of at most 15 + 127. -/
theorem conversionIsExact : Obligations.ConversionIsExact := by
  intro h k hk
  by_cases hzero : sint16 h = 0
  · simp [hzero, binary32Value]
  · have hpos : (sint16 h).natAbs ≠ 0 := Int.natAbs_ne_zero.mpr hzero
    have hlo : 2 ^ Nat.log 2 (sint16 h).natAbs ≤ (sint16 h).natAbs := Nat.pow_log_le_self 2 hpos
    have hhi := Nat.lt_pow_succ_log_self Nat.one_lt_two (sint16 h).natAbs
    obtain ⟨he, -, hexp, -⟩ := scaleCode_fields_of_bounds hk hlo hhi
    refine ⟨binary32Value_scaleCode hk hlo hhi, fun hz => absurd hz hzero, fun _ => ?_⟩
    rw [hexp]
    omega

end Sys2Proof.Machine
end

section
/-! PROOFS. R181, R184, R195: an error response is the fault of the port's current command, and a recorded fault keeps the
run from ending well. -/

namespace Sys2Proof.Machine

variable {s t : State} {i : Instr} {p : Port} {r : Response}

/-- The state in which port `p` answers: a PRODUCE that answers holds no more (R141, R142). -/
def State.endHold (s : State) (p : Port) : State :=
  s.withConsWait (if p = .consumer then .none else s.st.consWait)

/-- A free port has no hold to end. -/
theorem State.endHold_of_free (hf : PortFree s p) : s.endHold p = s := by
  refine State.withConsWait_of_eq ?_
  split
  · next hp =>
    subst hp
    exact hf
  · rfl

theorem PortKept.not_answered (h : PortKept s t p) : t.io.out p ≠ r :: s.io.out p := by
  simp [h.1]

/-- Where one port answers, a response more is that port's answer. -/
theorem Answered.eq_of_out {q : Port} {r' : Response} (h : Answered s t q r') (hout : t.io.out p = r :: s.io.out p) :
    p = q ∧ r = r' := by
  have hpq : p = q := by
    by_contra hne
    exact PortKept.not_answered (h.otherPorts p hne) hout
  subst hpq
  exact ⟨rfl, (List.cons.inj (hout.symm.trans h.response)).1⟩

theorem not_error_of_answered_ok {q : Port} {v : Word} (h : Answered s t q (Response.ok v))
    (hout : t.io.out p = r :: s.io.out p) : r.err ≠ true := by
  obtain ⟨-, rfl⟩ := h.eq_of_out hout
  exact Bool.false_ne_true

/-- A command gives its error responses on its own port, as faults of its own word, and does nothing else then but end its
hold. -/
theorem ExecCase.fault_of_error (he : ExecCase s i t) (hout : t.io.out p = r :: s.io.out p) (herr : r.err = true) :
    i.port = p ∧ ∃ cause, t = (s.endHold p).raiseFault p cause (encode i) := by
  have hport : i.port = p := by
    by_contra hne
    exact (he.answers_or_keeps.1 p (Ne.symm hne)).not_answered hout
  subst hport
  refine ⟨rfl, ?_⟩
  cases he with
  | alreadyOpen | startClosed | startBusy | badReg | deliverNoLoop | deliverBadLength | exitNoLoop | produceClosed =>
    exact ⟨_, rfl⟩
  | stopHolds | closeHolds | produceHolds => simp at hout
  | _ =>
    obtain ⟨rfl, -⟩ := List.cons.inj hout
    exact absurd herr Bool.false_ne_true

/-- A step gives its error responses as faults of the port's current command; a held PRODUCE is that command by R38. -/
theorem StepCase.fault_of_error (h : StepCase s t) (hm : s.HoldsMatch) (hout : t.io.out p = r :: s.io.out p)
    (herr : r.err = true) :
    ∃ c cs cause, s.io.cmds p = c :: cs ∧ t = (s.tick.endHold p).raiseFault p cause c.word := by
  cases h with
  | ran q c cs i t hp hf hc hw hi he =>
    obtain ⟨rfl, cause, ht⟩ := he.fault_of_error hout herr
    subst hi
    exact ⟨c, cs, cause, hc, hw ▸ ht⟩
  | rejected q c cs e hp hf hc hd =>
    obtain ⟨rfl, -⟩ := (faulted_raiseFault s.tick q (rejectCause e) c.word).answered.eq_of_out hout
    exact ⟨c, cs, rejectCause e, hc, by rw [State.endHold_of_free (s := s.tick) hf]⟩
  | retried want t hp hw he =>
    obtain ⟨rfl, cause, ht⟩ := he.fault_of_error hout herr
    obtain ⟨c, cs, hc, hword⟩ := hm.produceHeld want hw
    exact ⟨c, cs, cause, hc, hword ▸ ht⟩
  | idle | reset => simp at hout
  | stopJoined | closeJoined | timedOut =>
    exact absurd herr (not_error_of_answered_ok (answered_respond s.tick _ (Response.ok 0) _) hout)

/-- Settles O46: the step raises the fault, so R181 holds of it whole. -/
theorem faultsArePrecise : Obligations.FaultsArePrecise := by
  intro s t p r hinv hstep hout herr
  obtain ⟨c, cs, cause, hc, rfl⟩ := (step_cases hstep).fault_of_error hinv.holds hout herr
  exact ⟨c, cs, cause, hc, faulted_raiseFault (s.tick.endHold p) p cause c.word⟩

/-- Settles O60: the record of a fault is kept (R37), and a faulted state is never a good final one (R195). -/
theorem faultedRunNeverEndsWell : Obligations.FaultedRunNeverEndsWell := by
  intro s t hfaulted hpick hstep
  obtain ⟨hkept, -⟩ := faultRecordIsSticky s t hstep hpick hfaulted
  exact ⟨hkept, fun hwell => hwell.2 hkept⟩

end Sys2Proof.Machine
end

section
/-! PROOFS. R200: a hardware reset sets every field of `st`, and only a reset clears the fault record. -/

namespace Sys2Proof.Machine

variable (p : Params)

/-- R200: the reset block has every value of the table, whatever the parameters are. -/
theorem Block.resetTable_reset : ResetTable p (Block.reset p) where
  life := rfl
  running := rfl
  loopActive := rfl
  cancelReq := rfl
  cfgBuffers := rfl
  cfgBuflen := rfl
  geometry := ⟨rfl, rfl⟩
  slots := rfl
  ring := ⟨rfl, rfl, rfl⟩
  primed := rfl
  skipRem := rfl
  ovfCount := rfl
  drvStatus := rfl
  record := ⟨rfl, rfl, rfl⟩
  holds := ⟨rfl, rfl⟩

/-- R40: after a reset every flag of STATE but EMPTY is clear; FULL is, because the block is closed. -/
theorem Block.stateWord_reset : (Block.reset p).stateWord = 0x80 := by
  have hfull : (Block.reset p).isFull = false := by simp [Block.isFull, Block.reset]
  have hempty : (Block.reset p).isEmpty = true := by simp [Block.isEmpty, Block.reset]
  rw [Block.stateWord, hfull, hempty]
  simp [Block.reset, flagAt]

theorem step_of_reset {s : State} (hp : s.nextPick = .reset) : step s = .next s.tick.hardwareReset := by
  simp [step, hp, State.pickStep]

/-- R37: the contrapositive of `faultRecordIsSticky`. -/
theorem nextPick_eq_reset_of_fault_cleared {s t : State} (hstep : step s = .next t) (hs : s.st.fault = true)
    (ht : t.st.fault = false) : s.nextPick = .reset := by
  by_contra hpick
  obtain ⟨hkept, -⟩ := faultRecordIsSticky s t hstep hpick hs
  exact Bool.false_ne_true (ht.symm.trans hkept)

/-- Settles O7: the reset step leads to `Block.reset` of the machine's parameters, and the state after reset holds the
same block, for this hardware's parameters. -/
theorem hardwareResetSetsEveryField : Obligations.HardwareResetSetsEveryField :=
  ⟨fun s hp => ⟨_, step_of_reset hp, Block.resetTable_reset s.params, Block.stateWord_reset s.params, rfl⟩,
    fun _ _ => nextPick_eq_reset_of_fault_cleared,
    Block.resetTable_reset Params.hardware, rfl, rfl, Block.stateWord_reset Params.hardware⟩

end Sys2Proof.Machine
end
